-- ==== Sys2Proof/Word.lean ====
section
/-! DEFINITION. The plain data every other file speaks in: bytes and command words, the two levels of the line, and
the events of the trace (spec/00_scope.md rules R10, R12, R13, R14). -/

namespace Sys2Proof

/-- Eight bits, bit 0 the least significant (R10). -/
abbrev Byte := BitVec 8

/-- One word on the `cmd` port (R90): `op` in bits 11:8, `arg` in bits 7:0. -/
abbrev CmdWord := BitVec 12

/-- A 32-bit two's-complement register, or a word on `rd_data` (R21, R22). -/
abbrev Word32 := BitVec 32

/-- A level of the line (R12): as numbers `L = 0`, `H = 1`. -/
inductive Level where
  | L
  | H
deriving DecidableEq, Repr, Inhabited

/-- One event of the trace (R13, R14): a level driven, a delay in whole microseconds, a level sampled, or the
boundary signal `Notify(Error)`. -/
inductive Event where
  | drv (l : Level)
  | dly (n : Nat)
  | smp (v : Level)
  | ntf
deriving DecidableEq, Repr

end Sys2Proof
end

