-- ==== Sys2Proof/Config.lean ====
section
/-! DEFINITION. What one build of the block fixes, and what the spec leaves free: the `DECODE_MODE` strap
(spec/10_state.md R38), the clock's `CLK_PER_US` (spec/00_scope.md R9), and the line environment's free answers
(spec/20_memory.md R63). The timing constants and the command bytes are no parameters (R7): they stand in
Machine/Segments.lean and Decode.lean. -/

namespace Sys2Proof

/-- The values of the strap `CONFIG.DECODE_MODE` (R38): 0 is `TWOS16`, the default, 1 is `LEGACY4096`. -/
inductive DecodeMode where
  | twos16
  | legacy4096
deriving DecidableEq, Repr

/-- FREE VALUE (log entry 1). `Env(trace_so_far, choice)` of R63: what the unconstrained line environment puts on a
released line at a sample. It has no body, so no proof can lean on an answer: a theorem about it holds for every
environment. -/
opaque Config.freeLevel : List Event → Nat → Level

/-- FREE VALUE (log entry 2). One less than `CLK_PER_US`; the spec leaves the number open and no rule depends on it. -/
opaque Config.clkPerUsPred : Nat

/-- `CLK_PER_US` of R9, clock cycles in a tick of 1 µs: some integer that is at least 1. -/
def Config.clkPerUs : Nat := Config.clkPerUsPred + 1

end Sys2Proof
end

