-- ==== Sys2Proof/Syntax.lean ====
section
/-! DEFINITION. The commands as syntax: one constructor of `Instr` per row of spec/opcode_table.json, what a host can
put on the command port, and the lines of the mnemonic notation (spec/30_encoding.md R93, R100, R103, R104). -/

namespace Sys2Proof

/-- One constructor per row of the opcode table: the six command words of R93, and the three 1-Wire command bytes of
R100, which a host sends by the pseudo-command of that name (R104). Every term is well formed: operands have exactly
the width their field has (R92: "values outside 0 .. 255 cannot be expressed"). -/
inductive Instr where
  | reset
  | wbit (b : Bool)
  | wbyte (d : Byte)
  | rbit
  | rbyte
  | measure
  | skipRom
  | convertT
  | readSp
deriving DecidableEq, Repr

/-- The three 1-Wire command bytes the block knows by name (R100). -/
inductive LineCmd where
  | skipRom
  | convertT
  | readSp
deriving DecidableEq, Repr

/-- What the host puts on `cmd` in a tick: a command word, or one of the three pseudo-commands of R104 that is
shorthand for a word (`portWord` in Decode.lean gives the twelve bits). -/
inductive CmdIn where
  | word (w : CmdWord)
  | line (c : LineCmd)
deriving DecidableEq, Repr

/-- One line of the mnemonic notation (R103, R104); `word` is the `.word` line of program P7. Operands are plain
numbers here, so a line can be ill formed. -/
inductive AsmLine where
  | reset
  | wbit (n : Nat)
  | wbyte (n : Nat)
  | rbit
  | rbyte
  | measure
  | skiprom
  | convertt
  | readsp
  | getwatertemp
  | word (n : Nat)
deriving DecidableEq, Repr

end Sys2Proof
end

