-- ==== Sys2Proof/Machine/State.lean ====
section
/-! DEFINITION. The state of the block (spec/10_state.md R20 to R41): every register and flag of R22, R25 and R35 under
its own name, the strap of R38, the output `err_ind` of R196; and, marked as such, the model's own fields: what the host
puts on the ports, who answers samples, and the trace (R14, R63). -/

namespace Sys2Proof.Machine

/-- `OP` (R25): the command in progress, or the last one. -/
inductive OpCode where
  | none
  | reset
  | wbit
  | wbyte
  | rbit
  | rbyte
  | measure
deriving DecidableEq, Repr

/-- `MSTEP` (R25, R27): the primitive of `MEASURE` that is running; `idle` is 0, no measurement in progress. -/
inductive MStep where
  /-- 0: no measurement in progress -/
  | idle
  /-- 1: first `RESET` -/
  | reset1
  /-- 2: `WBYTE 0xCC` -/
  | skip1
  /-- 3: `WBYTE 0x44` -/
  | convert
  /-- 4: `WAIT` of 750,000 µs -/
  | wait
  /-- 5: second `RESET` -/
  | reset2
  /-- 6: `WBYTE 0xCC` -/
  | skip2
  /-- 7: `WBYTE 0xBE` -/
  | readSp
  /-- 8: `RBYTE` into `SP_LSB` -/
  | byteLsb
  /-- 9: `RBYTE` into `SP_MSB`, then decode -/
  | byteMsb
deriving DecidableEq, Repr

/-- `PRIM` (R25): the slot primitive in progress. -/
inductive Prim where
  | none
  | reset
  | wbit
  | rbit
  | wait
deriving DecidableEq, Repr

/-- `BYTEMODE` (R25): whether the current slot is one of eight. -/
inductive ByteMode where
  | none
  | writing
  | reading
deriving DecidableEq, Repr

/-- `ERRCODE` (R190); the fourth code is never produced. -/
inductive ErrCode where
  | none
  | notPresent
  | illegalCommand
deriving DecidableEq, Repr

/-- The line environment (R63). `free` answers as it likes; the others are the stubs of R81 to R83, and `script`, a
fixed list of answers (indexed by the count of samples) after which the environment is free again. -/
inductive LineEnv where
  | free
  | absent
  | sensor (lsb msb : Byte)
  | sensorGone (n : Nat) (lsb msb : Byte)
  | loopback
  | script (answers : List Level)
deriving DecidableEq, Repr

/-- The input ports of R21 in one tick. With `hold` the host keeps these values up, tick after tick, until a tick in
which `cmd_ready` is 1 (R234: "unless the host holds it until `cmd_ready = 1`"). -/
structure PortIn where
  rst : Bool
  cmdValid : Bool
  cmd : CmdIn
  rdSel : BitVec 3
  hold : Bool
deriving DecidableEq, Repr

/-- A tick in which the host asks for nothing. -/
def PortIn.quiet : PortIn := ⟨false, false, .word 0, 0, false⟩

/-- The state. The first block is the spec's, register by register; the second the model's own. -/
structure State where
  -- data registers (R22)
  shreg : Byte
  data : Byte
  spLsb : Byte
  spMsb : Byte
  t16 : Word32
  temp10 : Word32
  -- the sequencer position (R25)
  op : OpCode
  arg : Byte
  mstep : MStep
  prim : Prim
  wb : Bool
  seg : Fin 3
  byteMode : ByteMode
  bitIdx : Fin 8
  timer : BitVec 20
  -- flags (R35)
  owOut : Level
  busy : Bool
  done : Bool
  presence : Bool
  valid : Bool
  errcode : ErrCode
  -- the strap (R38) and the output err_ind (R196)
  decodeMode : DecodeMode
  errInd : Bool
  -- the model's own: the host's coming ticks, the environment and its choice counter, the trace
  host : List PortIn
  env : LineEnv
  choice : Nat
  trace : List Event
  cur : Nat
deriving DecidableEq, Repr

/-- Why the machine stops. The spec has no such case: each error of R190 is a next state. -/
inductive Fault where
  /-- Raised by `tick` when the sequencer position names no row of the segment table R120. Safe: the model stops where
  the spec gives no effect, and no run reaches such a position (R26; the invariant `BlockInv` of Safety.lean). -/
  | noSegment
deriving DecidableEq, Repr

/-- Why an instruction has no meaning. -/
inductive Refusal where
  /-- Raised only by an arm of `exec` whose instruction has no meaning yet (there is none). Safe: the model stops. -/
  | notModelled (mnemonic : String)
deriving DecidableEq, Repr

/-- The state after `rst` (R41): all zero except `OW_OUT = 1`; the strap at its default (R38). The model's own fields:
nothing on the ports, an unconstrained environment, an empty trace. -/
def State.reset : State where
  shreg := 0
  data := 0
  spLsb := 0
  spMsb := 0
  t16 := 0
  temp10 := 0
  op := .none
  arg := 0
  mstep := .idle
  prim := .none
  wb := false
  seg := 0
  byteMode := .none
  bitIdx := 0
  timer := 0
  owOut := .H
  busy := false
  done := false
  presence := false
  valid := false
  errcode := .none
  decodeMode := .twos16
  errInd := false
  host := []
  env := .free
  choice := 0
  trace := []
  cur := 0

end Sys2Proof.Machine
end

