-- ==== Sys2Proof/Machine/Segments.lean ====
section
/-! DEFINITION. The timing constants (spec/10_state.md R36) and the segment table the sequencer executes
(spec/40_slot_primitives.md R120). They are constants of the hardware, no parameters (R7). -/

namespace Sys2Proof.Machine

/-- Reset low hold, µs (R36). -/
def tRstl : Nat := 500
/-- Reset release-to-sample, µs (R36). -/
def tRsts : Nat := 70
/-- Reset slot tail, µs (R36; 500 and not 430, spec/90_conflicts.md C4). -/
def tRstt : Nat := 500
/-- Write-1 low, µs (R36). -/
def tW1l : Nat := 10
/-- Write-1 high, µs (R36). -/
def tW1h : Nat := 55
/-- Write-0 low, µs (R36). -/
def tW0l : Nat := 60
/-- Write-0 high, µs (R36). -/
def tW0h : Nat := 5
/-- Read initiate low, µs (R36). -/
def tRdl : Nat := 2
/-- Read sample delay, µs (R36). -/
def tRds : Nat := 12
/-- Read slot tail, µs (R36). -/
def tRdt : Nat := 50
/-- Conversion wait, 750 ms in µs (R36). -/
def tConv : Nat := 750000

/-- What a segment samples at its end (R120). -/
inductive Smp where
  | none
  | presence
  | bit
deriving DecidableEq, Repr

/-- A segment of R120: the level held, for how many microseconds, what is sampled at its end, whether it is the last. -/
structure Segment where
  level : Level
  dur : Nat
  smp : Smp
  last : Bool
deriving DecidableEq, Repr

/-- Low time of a write slot (R124). -/
def writeLow (b : Bool) : Nat := if b then tW1l else tW0l

/-- High time of a write slot (R124). -/
def writeHigh (b : Bool) : Nat := if b then tW1h else tW0h

/-- `SegTable(p, b, s)` (R120); `none` where the table has no row. -/
def segTable (p : Prim) (b : Bool) (sg : Fin 3) : Option Segment :=
  match p, sg with
  | .reset, 0 => some ⟨.L, tRstl, .none, false⟩
  | .reset, 1 => some ⟨.H, tRsts, .presence, false⟩
  | .reset, 2 => some ⟨.H, tRstt, .none, true⟩
  | .wbit, 0 => some ⟨.L, writeLow b, .none, false⟩
  | .wbit, 1 => some ⟨.H, writeHigh b, .none, true⟩
  | .rbit, 0 => some ⟨.L, tRdl, .none, false⟩
  | .rbit, 1 => some ⟨.H, tRds, .bit, false⟩
  | .rbit, 2 => some ⟨.H, tRdt, .none, true⟩
  | .wait, 0 => some ⟨.H, tConv, .none, true⟩
  | _, _ => none

end Sys2Proof.Machine
end

