-- ==== Sys2Proof/Machine/Trace.lean ====
section
/-! DEFINITION. The trace as an observation (spec/00_scope.md R14): the traces of the slots (spec/30_encoding.md R97,
R98; 40_slot_primitives.md R121, R124, R125), and what can be read off a trace: its duration, its waveform, its edges,
its samples (spec/70_reset_and_hazards.md R235). -/

namespace Sys2Proof.Machine

/-- The trace of a reset slot answered `v` (R121). -/
def resetTrace (v : Level) : List Event :=
  [.drv .L, .dly tRstl, .drv .H, .dly tRsts, .smp v, .dly tRstt]

/-- The trace of a write slot (R124). -/
def writeTrace (b : Bool) : List Event :=
  [.drv .L, .dly (writeLow b), .drv .H, .dly (writeHigh b)]

/-- The trace of a read slot answered `v` (R125). -/
def readTrace (v : Level) : List Event :=
  [.drv .L, .dly tRdl, .drv .H, .dly tRds, .smp v, .dly tRdt]

/-- The eight write slots of a byte, bit 0 first (R98, R141). -/
def writeByteTrace (d : Byte) : List Event :=
  (List.range 8).flatMap fun i => writeTrace (d.getLsbD i)

/-- Read slots with the answers given, in time order (R143). -/
def readTraces (vs : List Level) : List Event := vs.flatMap readTrace

/-- Duration of a trace in microseconds (R14: only `Dly` takes time). -/
def elapsed : List Event → Nat
  | [] => 0
  | .dly n :: tr => n + elapsed tr
  | .drv _ :: tr | .smp _ :: tr | .ntf :: tr => elapsed tr

/-- The waveform of a trace (R14): the master's output level `t` microseconds after its start, from level `l`. -/
def waveform (l : Level) : List Event → Nat → Level
  | [], _ => l
  | .drv l' :: tr, t => waveform l' tr t
  | .dly n :: tr, t => if t < n then l else waveform l tr (t - n)
  | .smp _ :: tr, t | .ntf :: tr, t => waveform l tr t

/-- Microseconds the master holds the line low in a trace, from level `l` (R141). -/
def lowTime (l : Level) : List Event → Nat
  | [] => 0
  | .drv l' :: tr => lowTime l' tr
  | .dly n :: tr => (if l = .L then n else 0) + lowTime l tr
  | .smp _ :: tr | .ntf :: tr => lowTime l tr

/-- Edges from high to low in a trace, from level `l` (R235). -/
def fallingEdges (l : Level) : List Event → Nat
  | [] => 0
  | .drv l' :: tr => (if l = .H ∧ l' = .L then 1 else 0) + fallingEdges l' tr
  | .dly _ :: tr | .smp _ :: tr | .ntf :: tr => fallingEdges l tr

/-- Edges from low to high in a trace, from level `l` (R128). -/
def risingEdges (l : Level) : List Event → Nat
  | [] => 0
  | .drv l' :: tr => (if l = .L ∧ l' = .H then 1 else 0) + risingEdges l' tr
  | .dly _ :: tr | .smp _ :: tr | .ntf :: tr => risingEdges l tr

/-- The levels sampled in a trace, in time order (R235). -/
def samplesOf : List Event → List Level
  | [] => []
  | .smp v :: tr => v :: samplesOf tr
  | .drv _ :: tr | .dly _ :: tr | .ntf :: tr => samplesOf tr

end Sys2Proof.Machine
end

