-- ==== Sys2Proof/Machine/Environment.lean ====
section
/-! DEFINITION. The line and who answers on it (spec/20_memory.md): the wired AND of R61, the oracle of R63, the stub
environments of R81 to R83 as functions of the trace up to the sample. -/

namespace Sys2Proof.Machine

/-- The level of the line (R61): low if the master or the environment pulls low. -/
def wiredAnd : Level → Level → Level
  | .H, .H => .H
  | .L, _ | .H, .L => .L

/-- A data bit as the level a stub answers (R82, R83): `H` for 1, `L` for 0. -/
def levelOfBit (b : Bool) : Level := if b then .H else .L

/-- Whether the sample about to be taken is a presence sample: it stands where a reset slot samples (R97, R121).
The trace is given newest event first. -/
def atPresenceSample (rev : List Event) : Bool :=
  rev.take 4 == [.dly tRsts, .drv .H, .dly tRstl, .drv .L]

/-- The same for the bit sample of a read slot (R97, R125). -/
def atBitSample (rev : List Event) : Bool :=
  rev.take 4 == [.dly tRds, .drv .H, .dly tRdl, .drv .L]

/-- The presence samples taken in a trace, newest event first, newest sample first. -/
def presenceSamples : List Event → List Level
  | [] => []
  | .smp v :: rev => if atPresenceSample rev then v :: presenceSamples rev else presenceSamples rev
  | .drv _ :: rev | .dly _ :: rev | .ntf :: rev => presenceSamples rev

/-- How many bit samples were taken since the most recent reset slot (R82's pointer `k`); newest event first. -/
def bitSamplesSinceReset : List Event → Nat
  | [] => 0
  | .smp _ :: rev =>
    if atPresenceSample rev then 0
    else if atBitSample rev then bitSamplesSinceReset rev + 1
    else bitSamplesSinceReset rev
  | .drv _ :: rev | .dly _ :: rev | .ntf :: rev => bitSamplesSinceReset rev

/-- `SensorStub(lsb, msb)` (R82), the trace given newest event first. -/
def sensorAnswer (lsb msb : Byte) (rev : List Event) : Level :=
  if atPresenceSample rev then .L
  else if bitSamplesSinceReset rev < 16 then levelOfBit ((msb ++ lsb).getLsbD (bitSamplesSinceReset rev))
  else .H

/-- `SensorStubGone(n)` (R82): absent from the `n`-th reset slot of the trace onward, a slot
counting from its sample (log entry 12). -/
def sensorGoneAnswer (n : Nat) (lsb msb : Byte) (rev : List Event) : Level :=
  if atPresenceSample rev && decide (n ≤ (presenceSamples rev).length + 1) then .H
  else sensorAnswer lsb msb rev

/-- The queue of `LoopbackStub` (R83) after a trace, oldest event first, starting from `q`: a write slot appends its
bit, a bit sample removes the oldest. -/
def loopbackQueue (q : List Bool) : List Event → List Bool
  | [] => q
  | e :: tr =>
    if (e :: tr).take 4 == writeTrace true then loopbackQueue (q ++ [true]) tr
    else if (e :: tr).take 4 == writeTrace false then loopbackQueue (q ++ [false]) tr
    else if (e :: tr).take 4 == [.drv .L, .dly tRdl, .drv .H, .dly tRds] && (samplesOf ((tr.drop 3).take 1)).length == 1
    then loopbackQueue q.tail tr
    else loopbackQueue q tr

/-- `LoopbackStub` (R83), the trace given oldest event first. -/
def loopbackAnswer (tr : List Event) : Level :=
  if atPresenceSample tr.reverse then .L
  else
    match loopbackQueue [] tr with
    | [] => .H
    | b :: _ => levelOfBit b

/-- `Env(trace_so_far, choice)` (R63): what the environment puts on the line. -/
def envAnswer (env : LineEnv) (tr : List Event) (choice : Nat) : Level :=
  match env with
  | .free => Config.freeLevel tr choice
  | .absent => .H
  | .sensor lsb msb => sensorAnswer lsb msb tr.reverse
  | .sensorGone n lsb msb => sensorGoneAnswer n lsb msb tr.reverse
  | .loopback => loopbackAnswer tr
  | .script answers => answers.getD choice (Config.freeLevel tr choice)

/-! ## The answers a slot meets, as functions of what stands on the line before it -/

/-- What the environment answers to a reset slot that starts after the trace `tr` (R121). -/
def resetAnswer (env : LineEnv) (tr : List Event) (choice : Nat) : Level :=
  envAnswer env (tr ++ [.drv .L, .dly tRstl, .drv .H, .dly tRsts]) choice

/-- What the environment answers to a read slot that starts after the trace `tr` (R125). -/
def readAnswer (env : LineEnv) (tr : List Event) (choice : Nat) : Level :=
  envAnswer env (tr ++ [.drv .L, .dly tRdl, .drv .H, .dly tRds]) choice

/-- What it answers to `n` read slots back to back (R140, R143). -/
def readAnswers (env : LineEnv) : Nat → List Event → Nat → List Level
  | 0, _, _ => []
  | n + 1, tr, choice =>
    readAnswer env tr choice ::
      readAnswers env n (tr ++ readTrace (readAnswer env tr choice)) (choice + 1)

/-- The byte whose bit `i` is the level answered in slot `i` (R65, R98): `H` is 1 (R126). -/
def byteOfLevels (vs : List Level) : Byte :=
  BitVec.ofFnLE fun i : Fin 8 => vs.getD i.val .L == .H

end Sys2Proof.Machine
end

