-- ==== Sys2Proof/WellFormed.lean ====
section
/-! DEFINITION. When a command word, a format's operand byte, or a line of the mnemonic notation is well formed
(spec/30_encoding.md R91, R93, R95, R103). -/

namespace Sys2Proof

/-- The three formats of R91: no operand, one bit, one byte. -/
inductive Format where
  | z
  | b1
  | b8
deriving DecidableEq, Repr

/-- The "must be 0" bits of R91: whether a format admits this operand byte. -/
def formatAdmits : Format → Byte → Bool
  | .z, arg => arg == 0
  | .b1, arg => arg.extractLsb' 1 7 == 0
  | .b8, _ => true

/-- A row of the opcode map of R93: a word selects it when `w & mask = match`. -/
structure OpRow where
  opcode : BitVec 4
  format : Format
  pattern : CmdWord
  mask : CmdWord
deriving DecidableEq, Repr

/-- The opcode map of R93, its six legal rows. -/
def opcodeMap : List OpRow :=
  [ ⟨0x1, .z, 0x100, 0xFFF⟩, ⟨0x2, .b1, 0x200, 0xFFE⟩, ⟨0x3, .b8, 0x300, 0xF00⟩,
    ⟨0x4, .z, 0x400, 0xFFF⟩, ⟨0x5, .z, 0x500, 0xFFF⟩, ⟨0x6, .z, 0x600, 0xFFF⟩ ]

/-- Whether a word selects a row (R93). -/
def rowSelected (r : OpRow) (w : CmdWord) : Bool := w &&& r.mask == r.pattern

/-- A command word is well formed when it selects a row of the opcode map; every other word is illegal (R95). -/
def wordWellFormed (w : CmdWord) : Bool := opcodeMap.any fun r => rowSelected r w

/-- A line of the notation is well formed when its operand is one R103 allows: a bit, a byte, a 12-bit word. -/
def asmWellFormed : AsmLine → Bool
  | .wbit n => n ≤ 1
  | .wbyte n => n ≤ 255
  | .word n => n < 4096
  | .reset | .rbit | .rbyte | .measure | .skiprom | .convertt | .readsp | .getwatertemp => true

end Sys2Proof
end

