-- ==== Sys2Proof/Decode.lean ====
section
/-! DEFINITION. Decoding and encoding (spec/30_encoding.md): `Dec` of R94, total on all 4096 words, with a name for
each way a word is illegal (R95); the encoder written from R91 to R93; the three command bytes of R100 and the words
of the pseudo-commands (R104); and the host's view of the table's rows. -/

namespace Sys2Proof

/-- Why a word or a byte is no instruction (R95, R101). -/
inductive DecodeError where
  /-- opcode 0x0 or 0x7 to 0xF, with any `arg` -/
  | illegalOpcode
  /-- opcode 0x1, 0x4, 0x5 or 0x6 with `arg != 0` -/
  | argNotZero
  /-- opcode 0x2 with `arg[7:1] != 0` -/
  | argNotBit
  /-- a byte that is none of the three 1-Wire command bytes of R100 -/
  | notCommandByte
deriving DecidableEq, Repr

/-- `op = w[11:8]` (R90). -/
def opField (w : CmdWord) : BitVec 4 := w.extractLsb' 8 4

/-- `arg = w[7:0]` (R90). -/
def argField (w : CmdWord) : Byte := w.extractLsb' 0 8

/-- The four `Z` opcodes take no operand: any bit of `arg` that is 1 makes the word illegal (R91). -/
def decodeZ (arg : Byte) (i : Instr) : Except DecodeError Instr :=
  if formatAdmits .z arg then .ok i else .error .argNotZero

/-- `Dec(w)` of R94. -/
def decodeWord (w : CmdWord) : Except DecodeError Instr :=
  let arg := argField w
  if opField w = 0x1 then decodeZ arg .reset
  else if opField w = 0x2 then
    if formatAdmits .b1 arg then .ok (.wbit (arg.getLsbD 0)) else .error .argNotBit
  else if opField w = 0x3 then .ok (.wbyte arg)
  else if opField w = 0x4 then decodeZ arg .rbit
  else if opField w = 0x5 then decodeZ arg .rbyte
  else if opField w = 0x6 then decodeZ arg .measure
  else .error .illegalOpcode

/-- The 1-Wire command bytes of R100. -/
def lineCmdByte : LineCmd → Byte
  | .skipRom => 0xCC
  | .convertT => 0x44
  | .readSp => 0xBE

/-- The instruction a pseudo-command stands for. -/
def lineInstr : LineCmd → Instr
  | .skipRom => .skipRom
  | .convertT => .convertT
  | .readSp => .readSp

/-- The table's 8-bit rows: which of the three command bytes of R100 a byte is. -/
def lineCmdOf (b : Byte) : Option LineCmd :=
  if b = lineCmdByte .skipRom then some .skipRom
  else if b = lineCmdByte .convertT then some .convertT
  else if b = lineCmdByte .readSp then some .readSp
  else none

/-- The table's 8-bit rows, decoded; every other byte has no meaning of its own (R101). -/
def decodeLineByte (b : Byte) : Except DecodeError Instr :=
  match lineCmdOf b with
  | some c => .ok (lineInstr c)
  | none => .error .notCommandByte

/-- What the host has put on the port, decoded. -/
def decodeCmd : CmdIn → Except DecodeError Instr
  | .word w => decodeWord w
  | .line c => .ok (lineInstr c)

/-- `{op, arg}` (R90). -/
def packWord (op : BitVec 4) (arg : Byte) : CmdWord := op ++ arg

/-- `zext_8(b)`, the operand byte of format `B1` (R91). -/
def bitByte (b : Bool) : Byte := if b then 1 else 0

/-- The word of every instruction, from R91 to R93; the pseudo-commands' words are those of R104. -/
def encodeWord : Instr → CmdWord
  | .reset => packWord 0x1 0
  | .wbit b => packWord 0x2 (bitByte b)
  | .wbyte d => packWord 0x3 d
  | .rbit => packWord 0x4 0
  | .rbyte => packWord 0x5 0
  | .measure => packWord 0x6 0
  | .skipRom => packWord 0x3 (lineCmdByte .skipRom)
  | .convertT => packWord 0x3 (lineCmdByte .convertT)
  | .readSp => packWord 0x3 (lineCmdByte .readSp)

/-- What a host puts on the port to have the instruction run. -/
def encodeCmd : Instr → CmdIn
  | .skipRom => .line .skipRom
  | .convertT => .line .convertT
  | .readSp => .line .readSp
  | .reset => .word (encodeWord .reset)
  | .wbit b => .word (encodeWord (.wbit b))
  | .wbyte d => .word (encodeWord (.wbyte d))
  | .rbit => .word (encodeWord .rbit)
  | .rbyte => .word (encodeWord .rbyte)
  | .measure => .word (encodeWord .measure)

/-- The twelve bits on the `cmd` port: a pseudo-command is the `WBYTE` word of its byte (R104). -/
def portWord : CmdIn → CmdWord
  | .word w => w
  | .line c => packWord 0x3 (lineCmdByte c)

/-- A line of the notation assembled (R103, R104): `none` for an ill-formed line. `GETWATERTEMP` puts the word of
`MEASURE` on the port; what the host does afterwards is `getWaterTemp` in Machine/Command.lean. -/
def assemble (a : AsmLine) : Option CmdIn :=
  if asmWellFormed a then
    match a with
    | .reset => some (encodeCmd .reset)
    | .wbit n => some (encodeCmd (.wbit (n == 1)))
    | .wbyte n => some (encodeCmd (.wbyte (BitVec.ofNat 8 n)))
    | .rbit => some (encodeCmd .rbit)
    | .rbyte => some (encodeCmd .rbyte)
    | .measure => some (encodeCmd .measure)
    | .skiprom => some (.line .skipRom)
    | .convertt => some (.line .convertT)
    | .readsp => some (.line .readSp)
    | .getwatertemp => some (encodeCmd .measure)
    | .word n => some (.word (BitVec.ofNat 12 n))
  else none

/-- What a table row's bits put on the port: an 8-bit row is a 1-Wire command byte, every other row a 12-bit command
word; bits that the port does not have cannot be put there. -/
def tableCmd (nbits w : Nat) : Option CmdIn :=
  if nbits = 8 then
    if w < 256 then (lineCmdOf (BitVec.ofNat 8 w)).map .line else none
  else if w < 4096 then some (.word (BitVec.ofNat 12 w)) else none

/-- The instruction of a row of spec/opcode_table.json whose bits are `w`. -/
def decodeTableWord (nbits w : Nat) : Option Instr :=
  match tableCmd nbits w with
  | none => none
  | some c =>
    match decodeCmd c with
    | .ok i => some i
    | .error _ => none

end Sys2Proof
end

