-- ==== Sys2Proof/Machine/Operands.lean ====
section
/-! DEFINITION. The operand forms of the commands (spec/30_encoding.md R91, R92): which code `OP` takes and which byte
`ARG` takes for each instruction (spec/10_state.md R28). A pseudo-command is the `WBYTE` of its byte (R104). -/

namespace Sys2Proof.Machine

/-- The number of a command in `OP` (R25). -/
def opNumber : OpCode → BitVec 4
  | .none => 0
  | .reset => 1
  | .wbit => 2
  | .wbyte => 3
  | .rbit => 4
  | .rbyte => 5
  | .measure => 6

/-- The number of a measurement step in `MSTEP` (R27). -/
def mstepNumber : MStep → BitVec 4
  | .idle => 0
  | .reset1 => 1
  | .skip1 => 2
  | .convert => 3
  | .wait => 4
  | .reset2 => 5
  | .skip2 => 6
  | .readSp => 7
  | .byteLsb => 8
  | .byteMsb => 9

/-- The command `OP` names while an instruction runs (R28). -/
def opOf : Instr → OpCode
  | .reset => .reset
  | .wbit _ => .wbit
  | .wbyte _ => .wbyte
  | .rbit => .rbit
  | .rbyte => .rbyte
  | .measure => .measure
  | .skipRom => .wbyte
  | .convertT => .wbyte
  | .readSp => .wbyte

/-- The operand byte `ARG` holds while an instruction runs (R28, R92). -/
def argOf : Instr → Byte
  | .reset => 0
  | .wbit b => bitByte b
  | .wbyte d => d
  | .rbit => 0
  | .rbyte => 0
  | .measure => 0
  | .skipRom => lineCmdByte .skipRom
  | .convertT => lineCmdByte .convertT
  | .readSp => lineCmdByte .readSp

end Sys2Proof.Machine
end

