-- ==== Sys2Proof/Machine/Temperature.lean ====
section
/-! DEFINITION. The scratchpad decoder (spec/43_scratchpad_decoder.md R170 to R182): pure integer functions, no state
and no time. -/

namespace Sys2Proof.Machine

/-- `ASSEMBLE(lsb, msb)` (R170): `(msb << 8) | lsb`. -/
def assembleBytes (lsb msb : Byte) : BitVec 16 := (msb.setWidth 16 <<< 8) ||| lsb.setWidth 16

/-- `SignExtOK(raw)` (R171): bits 15 to 11 are all equal. -/
def signExtOk (raw : BitVec 16) : Bool :=
  raw.extractLsb' 11 5 == 0 || raw.extractLsb' 11 5 == 0x1F

/-- `InSensorRange(raw)` (R171): −55 °C to +125 °C. -/
def inSensorRange (raw : BitVec 16) : Bool := decide (-880 ≤ raw.toInt) && decide (raw.toInt ≤ 2000)

/-- `SIGNEXT(raw)` (R172), in both decode modes. -/
def signExt (mode : DecodeMode) (raw : BitVec 16) : Int :=
  match mode with
  | .twos16 => raw.toInt
  | .legacy4096 => if raw.toNat > 0x7FF then (raw.toNat : Int) - 4096 else raw.toNat

/-- `S12(raw)` (R173): the reading of the low twelve bits alone; no mode of the block. -/
def s12 (raw : BitVec 16) : Int := (raw.setWidth 12).toInt

/-- `ROUND10(t)` (R175): `floor((10 t + 8) / 16)`. -/
def round10 (t : Int) : Int := (10 * t + 8) / 16

/-- `ROUND10` in hardware terms (R175): times 10, plus 8, arithmetic shift right by 4, in 32 bits. -/
def round10Word (t : Word32) : Word32 := (t * 10 + 8).sshiftRight 4

/-- `floor(T16 / 16)` of R174: the whole degrees, `T16` shifted right arithmetically by 4. -/
def wholeDegrees (t : Word32) : Word32 := t.sshiftRight 4

/-- The fraction of R174 in sixteenths, `T16[3:0]`. -/
def sixteenths (t : Word32) : BitVec 4 := t.extractLsb' 0 4

/-- `DECODE(lsb, msb)` (R182). -/
def decodeTemp (mode : DecodeMode) (lsb msb : Byte) : Int := round10 (signExt mode (assembleBytes lsb msb))

/-- The result of `FORMAT10` (R179). -/
structure Formatted where
  neg : Bool
  whole : Nat
  tenth : Nat
deriving DecidableEq, Repr

/-- `FORMAT10(n)` (R179). -/
def format10 (n : Int) : Formatted := ⟨decide (n < 0), n.natAbs / 10, n.natAbs % 10⟩

/-- The text of R179, character by character. -/
def format10Text (n : Int) : List Char :=
  (if (format10 n).neg then ['-'] else []) ++ Nat.toDigits 10 (format10 n).whole ++ ['.']
    ++ Nat.toDigits 10 (format10 n).tenth

/-- The sentinel −999 °C in tenths, −9990, as it stands in `TEMP10` (R8, R176). -/
def sentinel : Word32 := -9990

end Sys2Proof.Machine
end

