-- ==== Sys2Proof/Machine/Flags.lean ====
section
/-! DEFINITION. How a sampled level becomes a flag or a bit (spec/30_encoding.md R99), the read map (spec/10_state.md
R37) and the output ports (R21). -/

namespace Sys2Proof.Machine

/-- `PRESENCE` from the level sampled (R99, R122): 1 for `L`, 0 for `H`. -/
def presenceOf (v : Level) : Bool := v == .L

/-- A data bit from the level sampled (R99, R126): 1 for `H`, 0 for `L`. -/
def bitOf (v : Level) : Bool := v == .H

/-- A level as a number (R12): `L = 0`, `H = 1`. -/
def levelBit (v : Level) : Bool := v == .H

/-- The number in `ERRCODE` (R190). -/
def errNumber : ErrCode → BitVec 2
  | .none => 0
  | .notPresent => 1
  | .illegalCommand => 2

/-- The number of the strap in `CONFIG` (R37). -/
def modeNumber : DecodeMode → BitVec 1
  | .twos16 => 0
  | .legacy4096 => 1

/-- `RAW = {SP_MSB, SP_LSB}` (R23), no register. -/
def rawOf (s : State) : BitVec 16 := assembleBytes s.spLsb s.spMsb

/-- `STATUS` (R37): bit 0 `BUSY`, 1 `DONE`, 2 `PRESENCE`, 3 `VALID`, 5:4 `ERRCODE`, 6 `OW_OUT`. -/
def statusWord (s : State) : Word32 :=
  (BitVec.ofBool (levelBit s.owOut) ++ errNumber s.errcode ++ BitVec.ofBool s.valid ++ BitVec.ofBool s.presence
    ++ BitVec.ofBool s.done ++ BitVec.ofBool s.busy).setWidth 32

/-- The read map (R37). It has no entry for `SHREG`, which R24 counts among the readable registers: the model follows R37
(DEDUCED, log entry 16). -/
def readMap (s : State) (sel : BitVec 3) : Word32 :=
  match sel with
  | 0 => statusWord s
  | 1 => s.data.setWidth 32
  | 2 => s.spLsb.setWidth 32
  | 3 => s.spMsb.setWidth 32
  | 4 => (rawOf s).setWidth 32
  | 5 => s.t16
  | 6 => s.temp10
  | 7 => (modeNumber s.decodeMode).setWidth 32

/-- What the input ports carry in this tick (R21). -/
def portNow (s : State) : PortIn := s.host.headD PortIn.quiet

/-- `cmd_ready = NOT BUSY` (R21). -/
def cmdReady (s : State) : Bool := !s.busy

/-- `rd_data`, the register `rd_sel` selects in this tick (R21, R37). -/
def rdData (s : State) : Word32 := readMap s (portNow s).rdSel

/-- `ow_out` (R21): 0 drives the line low, 1 releases it. -/
def owOutPort (s : State) : Bool := levelBit s.owOut

/-- `err_ind` (R21, R196). That `rst` lowers it at the boundary that ends the tick, as it does every register (R220), and not
already inside that tick, is the model's choice (DESIGN CHOICE, log entry 18). -/
def errIndPort (s : State) : Bool := s.errInd

end Sys2Proof.Machine
end

