-- ==== Sys2Proof/Machine/Ops.lean ====
section
/-! DEFINITION. The named operations of the block: the line primitives (spec/00_scope.md R13), the tick-level sequencer
`Begin`, `StartPrim`, `StartWByte`, `StartRByte`, `Tick`, `PrimDone`, `MeasureNext`, `Finish`, `Fail` (spec/10_state.md
R28 to R33), taking an error as one operation (spec/60_exceptions.md R190 to R193), `rst` (spec/70_reset_and_hazards.md
R220), and the taking of a word off the command port. -/

namespace Sys2Proof.Machine

/-! ## The trace being kept -/

/-- The `Dly` event still growing (R30: "the current Dly grows by 1 µs"), closed. It changes no register. -/
def flush (s : State) : State :=
  if s.cur = 0 then s else { s with trace := s.trace ++ [.dly s.cur], cur := 0 }

/-- The trace of R14 at this instant, the growing `Dly` with it. -/
def fullTrace (s : State) : List Event :=
  if s.cur = 0 then s.trace else s.trace ++ [.dly s.cur]

/-! ## The line primitives (R13) -/

/-- `Drive(l)`: `OW_OUT <- l`, event `Drv(l)`. -/
def drive (l : Level) (s : State) : State :=
  { s with owOut := l, trace := s.trace ++ [.drv l] }

/-- `Wait(n)` as one event, at the level of whole commands. -/
def waitUs (n : Nat) (s : State) : State :=
  { s with trace := s.trace ++ [.dly n] }

/-- The level `Sample()` returns (R61, R62): the wired AND of the master's output and the environment's answer. -/
def sampledLevel (s : State) : Level :=
  wiredAnd s.owOut (envAnswer s.env s.trace s.choice)

/-- `Sample()` as it is recorded: event `Smp(v)`, and the environment's choice counter moves on. -/
def recordSample (s : State) : State :=
  { s with trace := s.trace ++ [.smp (sampledLevel s)], choice := s.choice + 1 }

/-- The presence sample (R30): `PRESENCE <- (1 if v = L else 0)`. -/
def samplePresence (s : State) : State :=
  { recordSample s with presence := presenceOf (sampledLevel s) }

/-- The bit sample (R30): `SHREG <- SHREG | (zext_8(r) << i)`. -/
def sampleBit (i : Nat) (s : State) : State :=
  { recordSample s with shreg := s.shreg ||| (bitByte (bitOf (sampledLevel s)) <<< i) }

/-- `Notify(Error)` (R196): event `Ntf`, and `err_ind` high for the tick that begins here. -/
def notifyError (s : State) : State :=
  { s with errInd := true, trace := s.trace ++ [.ntf] }

/-! ## Starting (R28, R29) -/

/-- `Begin(op, arg)` (R28). -/
def beginCmd (o : OpCode) (a : Byte) (s : State) : State :=
  { s with op := o, arg := a, errcode := .none, busy := true, mstep := .idle, byteMode := .none, bitIdx := 0 }

/-- `StartPrim(p, b)` (R29): loads the first segment; `Drive` opens every slot but `WAIT`. A primitive without a row in
R120 is never started. -/
def startPrim (p : Prim) (b : Bool) (s : State) : State :=
  match segTable p b 0 with
  | none => s
  | some r =>
    if p = .wait then { s with prim := p, wb := b, seg := 0, timer := BitVec.ofNat 20 r.dur }
    else drive r.level { s with prim := p, wb := b, seg := 0, timer := BitVec.ofNat 20 r.dur }

/-- `StartWByte(d)` (R29). -/
def startWByte (d : Byte) (s : State) : State :=
  startPrim .wbit (d.getLsbD 0) { s with shreg := d, byteMode := .writing, bitIdx := 0 }

/-- `StartRByte()` (R29). -/
def startRByte (s : State) : State :=
  startPrim .rbit false { s with shreg := 0, byteMode := .reading, bitIdx := 0 }

/-- A command word presented (R28). While `BUSY = 1` it is not taken and nothing changes; while `BUSY = 0` the word is
taken, `DONE <- 0`, and the command's own part of `Accept` runs. The gap before it is closed in the trace (R74). -/
def acceptCmd (start : State → State) (s : State) : Host.Outcome State Fault Refusal :=
  if s.busy then .next s
  else .next (start { flush s with done := false })

/-! ## Ending (R33) and errors (R190 to R193) -/

/-- The sequencer position when nothing runs (R25, R33). -/
def clearPosition (s : State) : State :=
  { s with prim := .none, wb := false, seg := 0, byteMode := .none, bitIdx := 0, mstep := .idle, timer := 0 }

/-- The byte `Finish` leaves in `DATA` (R33): the two read commands copy `SHREG`, the others leave `DATA` alone. -/
def finishData (s : State) : Byte :=
  if s.op = .rbit ∨ s.op = .rbyte then s.shreg else s.data

/-- `Finish()` (R33). -/
def finish (s : State) : State :=
  { clearPosition s with data := finishData s, busy := false, done := true }

/-- Taking an error, for both of them. `NotPresent` is `Fail()` (R33, R192): it ends the command. `IllegalCommand`
(R193) leaves the block idle. Neither saves anything nor goes anywhere (R199), and there is no return (R200). -/
def takeError (e : ErrCode) (s : State) : State :=
  match e with
  | .none => s
  | .notPresent => finish (notifyError { s with errcode := .notPresent, temp10 := sentinel })
  | .illegalCommand => { flush s with errcode := .illegalCommand, done := true }

/-! ## The measurement sequencer (R32) -/

/-- Steps 7 and 8 of `MEASURE` (R32, R150): the two bytes decoded, `T16`, `TEMP10` and `VALID` written. -/
def decodeResult (s : State) : State :=
  { s with
    t16 := BitVec.ofInt 32 (signExt s.decodeMode (rawOf s))
    temp10 := BitVec.ofInt 32 (round10 (BitVec.ofInt 32 (signExt s.decodeMode (rawOf s))).toInt)
    valid := true }

/-- The presence test of `MeasureNext` (R32, R151): `NotPresent`, or on to the next step. -/
def ifPresent (next : State → State) (s : State) : State :=
  if s.presence then next s else takeError .notPresent s

/-- `MeasureNext()` (R32). -/
def measureNext (s : State) : State :=
  match s.mstep with
  | .idle => finish s
  | .reset1 => ifPresent (fun s => startWByte (lineCmdByte .skipRom) { s with mstep := .skip1 }) s
  | .skip1 => startWByte (lineCmdByte .convertT) { s with mstep := .convert }
  | .convert => startPrim .wait false { s with mstep := .wait }
  | .wait => startPrim .reset false { s with mstep := .reset2 }
  | .reset2 => ifPresent (fun s => startWByte (lineCmdByte .skipRom) { s with mstep := .skip2 }) s
  | .skip2 => startWByte (lineCmdByte .readSp) { s with mstep := .readSp }
  | .readSp => startRByte { s with mstep := .byteLsb }
  | .byteLsb => startRByte { s with spLsb := s.shreg, mstep := .byteMsb }
  | .byteMsb => finish (decodeResult { s with spMsb := s.shreg })

/-- The next slot of a byte (R31): `BITIDX` moves on and the slot of the new bit starts. -/
def nextSlot (s : State) : State :=
  if s.byteMode = .writing then
    startPrim .wbit (s.shreg.getLsbD (s.bitIdx + 1).val) { s with bitIdx := s.bitIdx + 1 }
  else startPrim .rbit false { s with bitIdx := s.bitIdx + 1 }

/-- `PrimDone()` (R31). A lone command ends by `Finish`, a measurement goes on by `MeasureNext`. -/
def primDone (s : State) : State :=
  if s.byteMode ≠ .none ∧ s.bitIdx.val < 7 then nextSlot s
  else measureNext { s with byteMode := .none, bitIdx := 0 }

/-! ## The tick (R30) -/

/-- What a segment samples at its end (R30). -/
def sampleFor (k : Smp) (s : State) : State :=
  match k with
  | .none => s
  | .presence => samplePresence s
  | .bit => sampleBit s.bitIdx.val s

/-- The next segment of the slot (R30): `Drive` only where the level changes. -/
def nextSegment (r r2 : Segment) (s : State) : State :=
  if r2.level = r.level then { s with seg := s.seg + 1, timer := BitVec.ofNat 20 r2.dur }
  else drive r2.level { s with seg := s.seg + 1, timer := BitVec.ofNat 20 r2.dur }

/-- The end of segment `r` (R30): its `Dly` is closed, it samples, and the slot goes on or ends. -/
def segmentEnd (r : Segment) (s : State) : Host.Outcome State Fault Refusal :=
  if r.last then .next (primDone (sampleFor r.smp (flush s)))
  else
    match segTable s.prim s.wb (s.seg + 1) with
    | none => .fault .noSegment
    | some r2 => .next (nextSegment r r2 (sampleFor r.smp (flush s)))

/-- One microsecond has passed (R30): the current `Dly` is longer by one, and `err_ind` has had its one tick (R196). -/
def passTick (s : State) : State := { s with cur := s.cur + 1, errInd := false }

/-- `Tick()` (R30), while `BUSY = 1`. -/
def tick (s : State) : Host.Outcome State Fault Refusal :=
  if 1 < s.timer.toNat then .next { passTick s with timer := s.timer - 1 }
  else
    match segTable s.prim s.wb s.seg with
    | none => .fault .noSegment
    | some r => segmentEnd r (passTick s)

/-! ## The ports: `rst` (R220), the command port (R28) -/

/-- Whether the host keeps this tick's port values up for the next tick (R234). -/
def hostHolds (s : State) : Bool := (portNow s).hold && s.busy

/-- The host goes on to what it does next. -/
def hostMoves (s : State) : State :=
  if hostHolds s then s else { s with host := s.host.tail }

/-- `rst = 1` at a tick boundary (R220): every register and flag takes its reset value, the strap keeps its own. The
trace goes on, with `Drv(H)` if `OW_OUT` was 0; host and environment are outside the block. That the growing `Dly` is closed
also where `OW_OUT` was 1 is the model's choice (DESIGN CHOICE, log entry 15). -/
def takeRst (s : State) : State :=
  { State.reset with
    decodeMode := s.decodeMode
    host := s.host.tail
    env := s.env
    choice := s.choice
    trace := if s.owOut = .L then fullTrace s ++ [.drv .H] else fullTrace s }

/-- What the command port holds in this tick (R28): nothing, a command, or an illegal word. -/
inductive Fetched where
  | nothing
  | instr (i : Instr)
  | illegal (e : DecodeError)
deriving DecidableEq, Repr

/-- The word on `cmd`, if `cmd_valid = 1`, decoded (R28, R94). -/
def fetch (s : State) : Fetched :=
  if (portNow s).cmdValid then
    match decodeCmd (portNow s).cmd with
    | .ok i => .instr i
    | .error e => .illegal e
  else .nothing

/-! ## What a busy master does to the host's list, for statements over many ticks -/

/-- The host's list after one tick in which the master was busy (R28, R234). -/
def hostAfterBusyTick : List PortIn → List PortIn
  | [] => []
  | p :: ps => if p.hold then p :: ps else ps

/-- The same after `n` such ticks. -/
def hostAfterBusy : Nat → List PortIn → List PortIn
  | 0, h => h
  | n + 1, h => hostAfterBusy n (hostAfterBusyTick h)

/-- No `rst` in the next `n` ticks of a busy master. -/
def noRstFor : Nat → List PortIn → Bool
  | 0, _ => true
  | n + 1, h => !(h.headD PortIn.quiet).rst && noRstFor n (hostAfterBusyTick h)

end Sys2Proof.Machine
end

