-- ==== Sys2Proof/Machine/Bytes.lean ====
section
/-! DEFINITION. The byte commands `WBYTE`, `RBYTE` (spec/41_byte_primitives.md R141, R143) and the three 1-Wire command
bytes of R100, each sent by its pseudo-command as the `WBYTE` of that byte (spec/30_encoding.md R104). -/

namespace Sys2Proof.Machine

/-- `WBYTE d` accepted (R28): `Begin(3, d); StartWByte(d)`. -/
def acceptWByte (d : Byte) (s : State) : Host.Outcome State Fault Refusal :=
  acceptCmd (fun s => startWByte d (beginCmd .wbyte d s)) s

/-- `WBYTE d` (R141). -/
def execWbyte (d : Byte) (s : State) : Host.Outcome State Fault Refusal := acceptWByte d s

/-- `RBYTE` (R143): `Begin(5, 0x00); StartRByte()`. -/
def execRbyte (s : State) : Host.Outcome State Fault Refusal :=
  acceptCmd (fun s => startRByte (beginCmd .rbyte (argOf .rbyte) s)) s

/-- `SKIPROM` (R100, R104): `WBYTE 0xCC`. -/
def execSkipRom (s : State) : Host.Outcome State Fault Refusal := acceptWByte (lineCmdByte .skipRom) s

/-- `CONVERTT` (R100, R104): `WBYTE 0x44`. -/
def execConvertT (s : State) : Host.Outcome State Fault Refusal := acceptWByte (lineCmdByte .convertT) s

/-- `READSP` (R100, R104): `WBYTE 0xBE`. -/
def execReadSp (s : State) : Host.Outcome State Fault Refusal := acceptWByte (lineCmdByte .readSp) s

end Sys2Proof.Machine
end

