-- ==== Sys2Proof/Machine/Measure.lean ====
section
/-! DEFINITION. The measurement command `MEASURE` (spec/42_measure_sequence.md R150): its acceptance (spec/10_state.md
R28). Its nine steps run in `measureNext`, tick by tick (R32). -/

namespace Sys2Proof.Machine

/-- What `MEASURE` clears at acceptance (R28, R150). -/
def clearResults (s : State) : State :=
  { s with valid := false, spLsb := 0, spMsb := 0, t16 := 0, temp10 := 0 }

/-- `MEASURE` (R150): `Begin(6, 0x00)`, the results cleared, `MSTEP <- 1; StartPrim(RESET, 0)`. -/
def execMeasure (s : State) : Host.Outcome State Fault Refusal :=
  acceptCmd (fun s =>
    startPrim .reset false { clearResults (beginCmd .measure (argOf .measure) s) with mstep := .reset1 }) s

end Sys2Proof.Machine
end

