-- ==== Sys2Proof/Machine/Slots.lean ====
section
/-! DEFINITION. The slot commands `RESET`, `WBIT`, `RBIT` (spec/40_slot_primitives.md R121, R124, R125): each is one
slot. The meaning is the acceptance of the command (spec/10_state.md R28); the ticks that follow it run the slot. -/

namespace Sys2Proof.Machine

/-- `RESET` (R121): `Begin(1, 0x00); StartPrim(RESET, 0)`. -/
def execReset (s : State) : Host.Outcome State Fault Refusal :=
  acceptCmd (fun s => startPrim .reset false (beginCmd .reset (argOf .reset) s)) s

/-- `WBIT b` (R124): `Begin(2, zext_8(b)); StartPrim(WBIT, b)`. -/
def execWbit (b : Bool) (s : State) : Host.Outcome State Fault Refusal :=
  acceptCmd (fun s => startPrim .wbit b (beginCmd .wbit (argOf (.wbit b)) s)) s

/-- `RBIT` (R125): `Begin(4, 0x00); SHREG <- 0x00; StartPrim(RBIT, 0)`. -/
def execRbit (s : State) : Host.Outcome State Fault Refusal :=
  acceptCmd (fun s => startPrim .rbit false { beginCmd .rbit (argOf .rbit) s with shreg := 0 }) s

end Sys2Proof.Machine
end

