-- ==== Sys2Proof/Machine/Dispatch.lean ====
section
/-! DEFINITION. One arm per constructor of `Instr`, each one direct call of its meaning. -/

namespace Sys2Proof.Machine

/-- The meaning of an instruction presented on the command port. -/
def exec (i : Instr) (s : State) : Host.Outcome State Fault Refusal :=
  match i with
  | .reset => Sys2Proof.Machine.execReset s
  | .wbit b => Sys2Proof.Machine.execWbit b s
  | .wbyte d => Sys2Proof.Machine.execWbyte d s
  | .rbit => Sys2Proof.Machine.execRbit s
  | .rbyte => Sys2Proof.Machine.execRbyte s
  | .measure => Sys2Proof.Machine.execMeasure s
  | .skipRom => Sys2Proof.Machine.execSkipRom s
  | .convertT => Sys2Proof.Machine.execConvertT s
  | .readSp => Sys2Proof.Machine.execReadSp s

end Sys2Proof.Machine
end

