-- ==== Sys2Proof/Machine/Step.lean ====
section
/-! DEFINITION. One step: a tick boundary (spec/10_state.md R28, R30; spec/70_reset_and_hazards.md R220), and the host's
way of placing an instruction. -/

namespace Sys2Proof.Machine

/-- One tick boundary. `rst` wins over everything (R220). A busy master ticks (R30) and takes no word (R28). An idle
master takes the word on `cmd`, which is no time (R74, R193), or lets a tick pass in which nothing changes (R30). -/
def step (s : State) : Host.Outcome State Fault Refusal :=
  if (portNow s).rst then .next (takeRst s)
  else if s.busy then tick (hostMoves s)
  else
    match fetch s with
    | .nothing => .next (passTick (hostMoves s))
    | .instr i => exec i (hostMoves s)
    | .illegal _ => .next (takeError .illegalCommand (hostMoves s))

/-- The instruction of a row of spec/opcode_table.json on the command port of an idle master, so that the next step
takes it (log entry 11). Bits the port does not have change nothing. -/
def State.withFetchWord (s : State) (nbits w : Nat) : State :=
  match tableCmd nbits w with
  | none => s
  | some c => { s with busy := false, host := ⟨false, true, c, 0, false⟩ :: s.host }

end Sys2Proof.Machine
end

