-- ==== Sys2Proof/Machine/Command.lean ====
section
/-! DEFINITION. Each command as a whole (spec/40_slot_primitives.md, 41_byte_primitives.md, 42_measure_sequence.md):
the command rules' own pseudocode over `Drive`, `Wait`, `Sample`, with the trace, the results and the duration they
give. By R34 these carry the source's numbers, and the ticks of Ops.lean must come to the same; that they do is a
claim. Last, what the host makes of a finished measurement (R156). -/

namespace Sys2Proof.Machine

/-! ## Slots and bytes (R121, R124, R125, R141, R143) -/

/-- The pseudocode of `RESET` (R121). -/
def resetSlot (s : State) : State :=
  waitUs tRstt (samplePresence (waitUs tRsts (drive .H (waitUs tRstl (drive .L s)))))

/-- The pseudocode of `WBIT b` (R124). -/
def writeSlot (b : Bool) (s : State) : State :=
  waitUs (writeHigh b) (drive .H (waitUs (writeLow b) (drive .L s)))

/-- The pseudocode of one read slot (R125), its bit going to `SHREG[i]`. -/
def readSlot (i : Nat) (s : State) : State :=
  waitUs tRdt (sampleBit i (waitUs tRds (drive .H (waitUs tRdl (drive .L s)))))

/-- Eight write slots, bit 0 first (R141). -/
def writeByteSlots (d : Byte) (s : State) : State :=
  (List.range 8).foldl (fun s i => writeSlot (d.getLsbD i) s) { s with shreg := d }

/-- Eight read slots, bit 0 first (R143). -/
def readByteSlots (s : State) : State :=
  (List.range 8).foldl (fun s i => readSlot i s) { s with shreg := 0 }

/-! ## Whole commands -/

/-- What holds while a command runs, seen from its end: `OP`, `ARG`, `ERRCODE` as `Begin` sets them (R28). -/
def cmdBegin (o : OpCode) (a : Byte) (s : State) : State :=
  { flush s with op := o, arg := a, errcode := .none, errInd := false }

/-- `Finish` seen from the end (R33): the position cleared, `DONE <- 1`; `BUSY` is 0 again. -/
def cmdEnd (s : State) : State := { clearPosition s with busy := false, done := true }

/-- `RESET` (R121). -/
def cmdReset (s : State) : State := cmdEnd (resetSlot (cmdBegin .reset 0 s))

/-- `WBIT b` (R124). -/
def cmdWbit (b : Bool) (s : State) : State := cmdEnd (writeSlot b (cmdBegin .wbit (bitByte b) s))

/-- `WBYTE d` (R141). -/
def cmdWbyte (d : Byte) (s : State) : State := cmdEnd (writeByteSlots d (cmdBegin .wbyte d s))

/-- The eight commands `WBIT d[0]`, ..., `WBIT d[7]` issued with no gap (R142). -/
def eightWbits (d : Byte) (s : State) : State :=
  (List.range 8).foldl (fun s i => cmdWbit (d.getLsbD i) s) s

/-- The expansion of `WBYTE d` (R142) as the pseudocode of R141 has it: `SHREG <- d`, then the eight `WBIT`. That it takes in
the first line of that pseudocode is DEDUCED (log entry 9): `WBIT` itself writes no data register (R124). -/
def wbyteExpansion (d : Byte) (s : State) : State := eightWbits d { s with shreg := d }

/-- `DATA <- SHREG` at the end of a read command (R125, R143). -/
def shregToData (s : State) : State := { s with data := s.shreg }

/-- `RBIT` (R125). -/
def cmdRbit (s : State) : State :=
  cmdEnd (shregToData (readSlot 0 { cmdBegin .rbit 0 s with shreg := 0 }))

/-- `RBYTE` (R143). -/
def cmdRbyte (s : State) : State := cmdEnd (shregToData (readByteSlots (cmdBegin .rbyte 0 s)))

/-- `MEASURE` up to its first decision point (R150, step 1). -/
def measureStep1 (s : State) : State := resetSlot (clearResults (cmdBegin .measure 0 s))

/-- `MEASURE`, steps 2 to 4 (R150), after a first reset that found a device. -/
def measureSteps24 (s : State) : State :=
  resetSlot (waitUs tConv (writeByteSlots (lineCmdByte .convertT) (writeByteSlots (lineCmdByte .skipRom) s)))

/-- The byte just read goes to `SP_LSB` (R150, step 6). -/
def keepLsb (s : State) : State := { s with spLsb := s.shreg }

/-- The byte just read goes to `SP_MSB` (R150, step 6). -/
def keepMsb (s : State) : State := { s with spMsb := s.shreg }

/-- `MEASURE`, steps 5 to 8 (R150), after a second reset that found a device. -/
def measureSteps58 (s : State) : State :=
  decodeResult (keepMsb (readByteSlots (keepLsb (readByteSlots
    (writeByteSlots (lineCmdByte .readSp) (writeByteSlots (lineCmdByte .skipRom) s))))))

/-- `raise NotPresent` seen from the end (R151, R192). -/
def cmdNotPresent (s : State) : State :=
  cmdEnd (notifyError { s with errcode := .notPresent, temp10 := sentinel })

/-- `MEASURE` (R150, R151). -/
def cmdMeasure (s : State) : State :=
  if (measureStep1 s).presence then
    if (measureSteps24 (measureStep1 s)).presence then cmdEnd (measureSteps58 (measureSteps24 (measureStep1 s)))
    else cmdNotPresent (measureSteps24 (measureStep1 s))
  else cmdNotPresent (measureStep1 s)

/-- A whole command (R34), an instruction that is a pseudo-command being the `WBYTE` of its byte (R104). -/
def runCmd (i : Instr) (s : State) : State :=
  match i with
  | .reset => cmdReset s
  | .wbit b => cmdWbit b s
  | .wbyte d => cmdWbyte d s
  | .rbit => cmdRbit s
  | .rbyte => cmdRbyte s
  | .measure => cmdMeasure s
  | .skipRom => cmdWbyte (lineCmdByte .skipRom) s
  | .convertT => cmdWbyte (lineCmdByte .convertT) s
  | .readSp => cmdWbyte (lineCmdByte .readSp) s

/-! ## Durations (R235) -/

/-- Duration of a reset slot, 1070 µs (R127). -/
def resetDuration : Nat := tRstl + tRsts + tRstt

/-- Duration of a write slot, 65 µs for either bit (R127). -/
def writeDuration : Nat := tW1l + tW1h

/-- Duration of a read slot, 64 µs (R127). -/
def readDuration : Nat := tRdl + tRds + tRdt

/-- Duration of `MEASURE` (R154): the success path, or the exit its samples take. -/
def measureDuration (s : State) : Nat :=
  if (measureStep1 s).presence then
    if (measureSteps24 (measureStep1 s)).presence then
      2 * resetDuration + 4 * (8 * writeDuration) + tConv + 2 * (8 * readDuration)
    else 2 * resetDuration + 2 * (8 * writeDuration) + tConv
  else resetDuration

/-- Duration of every command (R235), from its acceptance to `BUSY = 0`. -/
def cmdDuration (i : Instr) (s : State) : Nat :=
  match i with
  | .reset => resetDuration
  | .wbit _ => writeDuration
  | .wbyte _ => 8 * writeDuration
  | .rbit => readDuration
  | .rbyte => 8 * readDuration
  | .measure => measureDuration s
  | .skipRom => 8 * writeDuration
  | .convertT => 8 * writeDuration
  | .readSp => 8 * writeDuration

/-! ## The sentinel wrapper (R156) -/

/-- What `GETWATERTEMP` returns once its `MEASURE` has ended (R104, R156): −999 on absence, else `TEMP10 / 10` °C,
as an exact number (log entry 14). -/
def getWaterTemp (s : State) : Rat :=
  if s.errcode = .notPresent then -999 else (s.temp10.toInt : Rat) / 10

/-! ## A host's program (R237) -/

/-- One entry of a program: the gap before the word, and the word (R237). -/
structure Issue where
  gap : Nat
  cmd : CmdIn
deriving DecidableEq, Repr

/-- The port values of one entry: `gap` idle ticks counted from the tick in which the master is ready, then the word,
held until it is taken (R74, R234, R237). -/
def issuePorts (p : Issue) : List PortIn :=
  List.replicate p.gap ⟨false, false, .word 0, 0, true⟩ ++ [⟨false, true, p.cmd, 0, true⟩]

/-- A whole program as the host puts it on the ports (R237). -/
def programPorts (ps : List Issue) : List PortIn := ps.flatMap issuePorts

/-- The gap before a command as it lies in the trace (R74): `Dly(g)`, omitted when `g = 0`. -/
def gapOf (g : Nat) (s : State) : State :=
  if g = 0 then s else { s with cur := s.cur + g, errInd := false }

/-- An illegal word as a whole (R193), or a whole command. -/
def runIssue (p : Issue) (s : State) : State :=
  match decodeCmd p.cmd with
  | .ok i => runCmd i (gapOf p.gap s)
  | .error _ => takeError .illegalCommand (gapOf p.gap s)

/-- A program at the level of whole commands (R74: traces one after the other, in issue order). -/
def runProgram (ps : List Issue) (s : State) : State := ps.foldl (fun s p => runIssue p s) s

end Sys2Proof.Machine
end

