-- ==== Sys2Proof/Safety.lean ====
section
/-! DEFINITION. What claims are stated in terms of: a state in which the sequencer position is one a run can reach
(`BlockInv`, from spec/10_state.md R25 to R33, R190, R182), when a read of a register carries a meaning (R24), and what a host
must do for its transactions to mean anything (spec/70_reset_and_hazards.md R225, R226, R231). -/

namespace Sys2Proof.Machine

/-! ## The invariant -/

/-- Nothing runs (R25, R33, R128): every position register is 0, and the line is released. -/
def IdlePosition (s : State) : Prop :=
  s.mstep = .idle ∧ s.prim = .none ∧ s.wb = false ∧ s.seg = 0 ∧ s.byteMode = .none ∧ s.bitIdx = 0 ∧ s.timer = 0
    ∧ s.owOut = .H

/-- The segment being timed (R26, R120): the position names a row of the segment table, `OW_OUT` is its level, and
`TIMER` holds between 1 and the row's duration. -/
def TimedSegment (s : State) : Prop :=
  ∃ r, segTable s.prim s.wb s.seg = some r ∧ s.owOut = r.level ∧ 1 ≤ s.timer.toNat ∧ s.timer.toNat ≤ r.dur

/-- What is being sent or read (R25, R29, R31): one slot on its own, or slot `BITIDX` of a byte; a byte being written
carries bit `BITIDX` of `SHREG`. -/
def SlotOfByte (s : State) : Prop :=
  match s.byteMode with
  | .none => s.bitIdx = 0
  | .writing => s.prim = .wbit ∧ s.wb = s.shreg.getLsbD s.bitIdx.val
  | .reading => s.prim = .rbit

/-- The primitive that runs belongs to the command, and inside `MEASURE` to its step (R27, R28, R32). -/
def RunsItsCommand (s : State) : Prop :=
  match s.op with
  | .none => False
  | .reset => s.mstep = .idle ∧ s.prim = .reset ∧ s.byteMode = .none
  | .wbit => s.mstep = .idle ∧ s.prim = .wbit ∧ s.byteMode = .none
  | .wbyte => s.mstep = .idle ∧ s.byteMode = .writing ∧ s.shreg = s.arg
  | .rbit => s.mstep = .idle ∧ s.prim = .rbit ∧ s.byteMode = .none
  | .rbyte => s.mstep = .idle ∧ s.byteMode = .reading
  | .measure =>
    match s.mstep with
    | .idle => False
    | .reset1 | .reset2 => s.prim = .reset ∧ s.byteMode = .none
    | .skip1 | .skip2 => s.byteMode = .writing ∧ s.shreg = lineCmdByte .skipRom
    | .convert => s.byteMode = .writing ∧ s.shreg = lineCmdByte .convertT
    | .readSp => s.byteMode = .writing ∧ s.shreg = lineCmdByte .readSp
    | .wait => s.prim = .wait ∧ s.byteMode = .none
    | .byteLsb | .byteMsb => s.byteMode = .reading

/-- While `MEASURE` runs its results stay as cleared at acceptance (R28, R151), `SP_LSB` until step 9. -/
def ResultsCleared (s : State) : Prop :=
  s.op = .measure →
    s.valid = false ∧ s.t16 = 0 ∧ s.temp10 = 0 ∧ s.spMsb = 0 ∧ (s.mstep = .byteMsb ∨ s.spLsb = 0)

/-- A command runs. -/
def BusyPosition (s : State) : Prop :=
  TimedSegment s ∧ SlotOfByte s ∧ RunsItsCommand s ∧ ResultsCleared s ∧ s.done = false ∧ s.errcode = .none

/-- The results of a successful `MEASURE` are the decoder's (R182). -/
def ResultsDecoded (s : State) : Prop :=
  s.valid = true →
    s.t16 = BitVec.ofInt 32 (signExt s.decodeMode (rawOf s))
      ∧ s.temp10 = BitVec.ofInt 32 (decodeTemp s.decodeMode s.spLsb s.spMsb)

/-- What `ERRCODE = 1` says (R190, R192): the last command was a `MEASURE` that found no presence. -/
def NotPresentRecorded (s : State) : Prop :=
  s.errcode = .notPresent →
    s.op = .measure ∧ s.temp10 = sentinel ∧ s.valid = false ∧ s.presence = false
      ∧ s.spLsb = 0 ∧ s.spMsb = 0 ∧ s.t16 = 0

/-- The invariant of the block: every step keeps it, and reset has it. -/
def BlockInv (s : State) : Prop :=
  (if s.busy then BusyPosition s else IdlePosition s) ∧ ResultsDecoded s ∧ NotPresentRecorded s

/-! ## What a whole command looks like from outside -/

/-- `n` steps of the machine, stopping at a fault or a refusal. -/
def runSteps (n : Nat) (s : State) : Host.Outcome State Fault Refusal := Host.Core.run Sys2Proof.core n s

/-- From `s`, `n` ticks lead to `u`, and the block is busy until the last of them (R235). -/
def BusyFor (n : Nat) (s u : State) : Prop :=
  runSteps n s = .next u
    ∧ ∀ k, k < n → ∃ m, runSteps k s = .next m ∧ m.busy = true

/-- Instruction `i`, presented in state `s`, is accepted, keeps the block busy for exactly `n` ticks and ends in `u`. -/
def CompletesIn (i : Instr) (s : State) (n : Nat) (u : State) : Prop :=
  ∃ t, exec i s = .next t ∧ t.busy = true ∧ t.done = false ∧ BusyFor n t u ∧ u.busy = false

/-- What every completed command leaves, whatever else it writes (R28, R33): its code and operand, the position cleared,
the line released, `DONE = 1`, `ERRCODE = 0`; the host `n` ticks further on. -/
def afterCmd (i : Instr) (n : Nat) (s : State) : State :=
  { clearPosition s with
    op := opOf i, arg := argOf i, errcode := .none, busy := false, done := true, owOut := .H, errInd := false
    cur := 0, host := hostAfterBusy n s.host }

/-- The trace of `MEASURE` up to its second reset slot, after `tr` and a first reset answered `v` (R150). -/
def measureTrace1 (tr : List Event) (v : Level) : List Event :=
  tr ++ resetTrace v ++ writeByteTrace 0xCC ++ writeByteTrace 0x44 ++ [.dly 750000]

/-- The trace of `MEASURE` up to its first read slot, after `tr` and both resets answered `L` (R150). -/
def measureTrace2 (tr : List Event) : List Event :=
  measureTrace1 tr .L ++ resetTrace .L ++ writeByteTrace 0xCC ++ writeByteTrace 0xBE

/-- The answers to the first eight read slots of `MEASURE` when both resets were answered `L` (R150, step 6). -/
def measureLsbAnswers (s : State) : List Level :=
  readAnswers s.env 8 (measureTrace2 (fullTrace s)) (s.choice + 2)

/-- The answers to the second eight (R150, step 6). -/
def measureMsbAnswers (s : State) : List Level :=
  readAnswers s.env 8 (measureTrace2 (fullTrace s) ++ readTraces (measureLsbAnswers s)) (s.choice + 10)

/-! ## Reads that carry a meaning -/

/-- Whether the register `sel` shows carries a meaning (R24): `T16` when `VALID = 1`; `TEMP10` when `VALID = 1` or
`ERRCODE = 1`; `DATA` after an `RBIT` or `RBYTE` has completed, and no longer than that command is the last one accepted (DESIGN CHOICE,
log entry 17). The others always do. -/
def readMeaningful (s : State) (sel : BitVec 3) : Bool :=
  match sel with
  | 1 => s.done && (s.op == .rbit || s.op == .rbyte)
  | 5 => s.valid
  | 6 => s.valid || s.errcode == .notPresent
  | 0 | 2 | 3 | 4 | 7 => true

/-! ## What the host must do -/

/-- Whether an instruction puts data slots on the line. -/
def isDataCmd : Instr → Bool
  | .wbit _ | .wbyte _ | .rbit | .rbyte | .skipRom | .convertT | .readSp => true
  | .reset | .measure => false

/-- R123, R226: no data slot after a `RESET` that found no presence, until the next `RESET`. -/
def keepsResetFirst (i : Instr) (s : State) : Bool :=
  !isDataCmd i || (presenceSamples (fullTrace s).reverse).head? != some .H

/-- Whether the word the host presents in this tick keeps R226. -/
def hostKeepsResetFirst (s : State) : Bool :=
  match fetch s with
  | .instr i => keepsResetFirst i s
  | .nothing | .illegal _ => true

/-- Whether an instruction sends the byte `b`. -/
def sendsByte (b : Byte) (i : Instr) : Bool := opOf i == .wbyte && argOf i == b

/-- The order of one transaction (R225): `RESET`, then Skip ROM, then a function command byte, then, for Read
Scratchpad only, read slots. That the two bytes are whole byte commands, and never eight `WBIT` with the same trace (R67), is
the model's choice (DESIGN CHOICE, log entry 19). -/
def transactionInOrder : List Instr → Bool
  | [] => false
  | .reset :: [] => true
  | .reset :: rom :: [] => sendsByte (lineCmdByte .skipRom) rom
  | .reset :: rom :: fn :: reads =>
    sendsByte (lineCmdByte .skipRom) rom && opOf fn == .wbyte
      && (reads.isEmpty || sendsByte (lineCmdByte .readSp) fn && reads.all fun i => i == .rbit || i == .rbyte)
  | _ :: _ => false

/-- R231: a host that builds its own transaction leaves at least the conversion wait itself. -/
def conversionGapOk (gap : Nat) : Bool := decide (tConv ≤ gap)

end Sys2Proof.Machine
end

