-- ==== Sys2Proof/Certificates/Slice0/Obligations.lean ====
section
/-! DEFINITION. The statements for the provers, each from numbered rules of the spec. `runSteps n`
is `n` steps of the machine; a busy machine's step is one tick of 1 µs. -/

open Sys2Proof Sys2Proof.Machine

/-! ## Encoding (spec/30_encoding.md) -/

/-- All the words of the decoding table of spec/95_test_vectors.md 2.1 (R94, R95). The last three clauses, that a command
byte of R100 decodes to an instruction of its own, are the model's choice (log entry 5). -/
def Obligations.DecodeGivesTheVectors : Prop :=
  (decodeWord 0x100 = .ok .reset ∧ decodeWord 0x200 = .ok (.wbit false) ∧ decodeWord 0x201 = .ok (.wbit true)
      ∧ decodeWord 0x300 = .ok (.wbyte 0x00) ∧ decodeWord 0x344 = .ok (.wbyte 0x44)
      ∧ decodeWord 0x3BE = .ok (.wbyte 0xBE) ∧ decodeWord 0x3CC = .ok (.wbyte 0xCC)
      ∧ decodeWord 0x3FF = .ok (.wbyte 0xFF) ∧ decodeWord 0x400 = .ok .rbit ∧ decodeWord 0x500 = .ok .rbyte
      ∧ decodeWord 0x600 = .ok .measure)
    ∧ (decodeWord 0x000 = .error .illegalOpcode ∧ decodeWord 0x0CC = .error .illegalOpcode
      ∧ decodeWord 0x101 = .error .argNotZero ∧ decodeWord 0x1FF = .error .argNotZero
      ∧ decodeWord 0x202 = .error .argNotBit ∧ decodeWord 0x203 = .error .argNotBit
      ∧ decodeWord 0x2FF = .error .argNotBit ∧ decodeWord 0x401 = .error .argNotZero
      ∧ decodeWord 0x580 = .error .argNotZero ∧ decodeWord 0x601 = .error .argNotZero
      ∧ decodeWord 0x700 = .error .illegalOpcode ∧ decodeWord 0x800 = .error .illegalOpcode
      ∧ decodeWord 0xF00 = .error .illegalOpcode ∧ decodeWord 0xFFF = .error .illegalOpcode)
    ∧ decodeLineByte 0xCC = .ok .skipRom ∧ decodeLineByte 0x44 = .ok .convertT ∧ decodeLineByte 0xBE = .ok .readSp

/-- R91 to R93, R100: every instruction, every operand, comes back from what the host puts on the port for it; and the
twelve bits there are its word. -/
def Obligations.DecodeInvertsEncode : Prop :=
  ∀ i : Instr, decodeCmd (encodeCmd i) = .ok i ∧ portWord (encodeCmd i) = encodeWord i

/-- R93, R94: a legal word has one meaning, and that meaning has only this word. -/
def Obligations.DecodedWordIsItsEncoding : Prop :=
  ∀ (w : CmdWord) (i : Instr), decodeWord w = .ok i → encodeWord i = w

/-- R93, R95: the illegal words are exactly those that select no row of the opcode map; no word selects two. -/
def Obligations.IllegalWordsSelectNoRow : Prop :=
  ∀ w : CmdWord,
    ((∃ e, decodeWord w = .error e) ↔ wordWellFormed w = false)
      ∧ ∀ r ∈ opcodeMap, ∀ r' ∈ opcodeMap, rowSelected r w = true → rowSelected r' w = true → r = r'

/-- R104: each pseudo-command's word is the `WBYTE` of its byte, and running it is running that. -/
def Obligations.PseudoCommandsAreTheirWbyte : Prop :=
  portWord (.line .skipRom) = 0x3CC ∧ portWord (.line .convertT) = 0x344 ∧ portWord (.line .readSp) = 0x3BE
    ∧ ∀ (c : LineCmd) (s : State),
        decodeWord (portWord (.line c)) = .ok (.wbyte (lineCmdByte c))
          ∧ exec (lineInstr c) s = exec (.wbyte (lineCmdByte c)) s

/-! ## One step (spec/10_state.md R28, R30; 60_exceptions.md R193; 70_reset_and_hazards.md R220) -/

/-- R28: an idle block without `rst` runs the instruction the word on `cmd` decodes to; the step adds only that the host
goes on to its next tick. -/
def Obligations.StepRunsTheDecodedInstruction : Prop :=
  ∀ (s : State) (p : PortIn) (rest : List PortIn) (i : Instr),
    s.host = p :: rest → p.rst = false → p.cmdValid = true → s.busy = false → decodeCmd p.cmd = .ok i →
      step s = exec i { s with host := rest }

/-- R28: accepting any instruction. The block is busy with it, `DONE` and `ERRCODE` are cleared, the slot's `Drv(L)` is
the one event, and of the data registers and flags only what R28 names is written. -/
def Obligations.AcceptStartsTheCommand : Prop :=
  ∀ (i : Instr) (s : State), s.busy = false →
    ∃ t, exec i s = .next t ∧ t.op = opOf i ∧ t.arg = argOf i ∧ t.busy = true ∧ t.done = false ∧ t.errcode = .none
      ∧ t.owOut = .L ∧ fullTrace t = fullTrace s ++ [.drv .L]
      ∧ t.data = s.data ∧ t.presence = s.presence ∧ t.decodeMode = s.decodeMode
      ∧ (i ≠ .measure → t.valid = s.valid ∧ t.spLsb = s.spLsb ∧ t.spMsb = s.spMsb ∧ t.t16 = s.t16 ∧ t.temp10 = s.temp10)
      ∧ (i = .measure → t.valid = false ∧ t.spLsb = 0 ∧ t.spMsb = 0 ∧ t.t16 = 0 ∧ t.temp10 = 0 ∧ t.mstep = .reset1)
      ∧ (opOf i = .wbyte → t.shreg = argOf i) ∧ (i = .rbit ∨ i = .rbyte → t.shreg = 0)
      ∧ (opOf i = .reset ∨ opOf i = .wbit ∨ opOf i = .measure → t.shreg = s.shreg)

/-- R28, R234: while `BUSY = 1` no word is taken: `exec` changes nothing, and two hosts that differ in what they present
(and drive no `rst`) see the same tick. -/
def Obligations.BusyBlockTakesNoWord : Prop :=
  ∀ s : State, s.busy = true →
    (∀ i : Instr, exec i s = .next s)
      ∧ ∀ (h h' : List PortIn) (t : State), noRstFor 1 h = true → noRstFor 1 h' = true →
          step { s with host := h } = .next t →
            step { s with host := h' } = .next { t with host := hostAfterBusyTick h' }

/-- R95, R193: an illegal word taken by an idle block. `DONE = 1`, `ERRCODE = 2`; no other register, flag or output
changes, and the trace is what it was. -/
def Obligations.IllegalWordOnlySetsErrcode : Prop :=
  ∀ (s : State) (p : PortIn) (rest : List PortIn) (w : CmdWord),
    s.host = p :: rest → p.rst = false → p.cmdValid = true → p.cmd = .word w → wordWellFormed w = false →
      s.busy = false →
      ∃ t, step s = .next t ∧ fullTrace t = fullTrace s
        ∧ t = { s with done := true, errcode := .illegalCommand, host := rest, trace := t.trace, cur := 0 }

/-- R193: "The error is not sticky": whatever `ERRCODE` was, accepting any instruction leaves it 0, and so does its
end, but for a `MEASURE` that fails. -/
def Obligations.ErrorsAreNotSticky : Prop :=
  ∀ (i : Instr) (s : State), s.busy = false →
    (∃ t, exec i s = .next t ∧ t.errcode = .none) ∧ (i ≠ .measure → (runCmd i s).errcode = .none)

/-- R220, R41: `rst` in any state, whatever else is on the ports. Every register and flag is 0 but `OW_OUT = 1`, the
strap is kept, the trace gains `Drv(H)` only where `OW_OUT` was 0; and the next tick of `rst` changes nothing more. -/
def Obligations.RstClearsEverything : Prop :=
  ∀ s : State, (portNow s).rst = true →
    ∃ t, step s = .next t
      ∧ t.shreg = 0 ∧ t.data = 0 ∧ t.spLsb = 0 ∧ t.spMsb = 0 ∧ t.t16 = 0 ∧ t.temp10 = 0
      ∧ t.op = .none ∧ t.arg = 0 ∧ IdlePosition t ∧ t.busy = false ∧ t.done = false ∧ t.presence = false
      ∧ t.valid = false ∧ t.errcode = .none ∧ t.errInd = false ∧ t.decodeMode = s.decodeMode
      ∧ fullTrace t = fullTrace s ++ (if s.owOut = .L then [.drv .H] else [])
      ∧ ((portNow t).rst = true → step t = .next { t with host := t.host.tail })

/-- R30, R74: an idle block whose host drives no `rst` and presents no word for `g` ticks, whatever else is on the ports,
and also once the host's list has run out. After `g` ticks the trace has grown by `Dly(g)` (log entry 4) and nothing else
has changed, but that `err_ind` has had its tick. -/
def Obligations.IdleTicksOnlyPassTime : Prop :=
  ∀ (s : State) (g : Nat), s.busy = false → 0 < g →
    (∀ p ∈ s.host.take g, p.rst = false ∧ p.cmdValid = false) →
      runSteps g s = .next { s with cur := s.cur + g, errInd := false, host := s.host.drop g }

/-- R30: a segment loaded with `TIMER = d` is timed for `d` ticks: the first `d − 1` only count. -/
def Obligations.TimerCountsTheSegment : Prop :=
  ∀ (s : State) (n : Nat), s.busy = true → 0 < n → n < s.timer.toNat → noRstFor n s.host = true →
    runSteps n s
      = .next { s with
          timer := s.timer - BitVec.ofNat 20 n, cur := s.cur + n, errInd := false, host := hostAfterBusy n s.host }

/-! ## The commands, whole (spec/40, 41, 42) -/

/-- R121: `RESET`. Its trace, `PRESENCE` from the one sample, 1070 µs; nothing else is written. -/
def Obligations.ResetRuns : Prop :=
  ∀ s : State, s.busy = false → noRstFor 1070 s.host = true →
    CompletesIn .reset s 1070
      { afterCmd .reset 1070 s with
        presence := resetAnswer s.env (fullTrace s) s.choice == .L
        trace := fullTrace s ++ [.drv .L, .dly 500, .drv .H, .dly 70,
          .smp (resetAnswer s.env (fullTrace s) s.choice), .dly 500]
        choice := s.choice + 1 }

/-- R124: `WBIT b`. Its trace, 65 µs for either bit; no data register and no `PRESENCE` is written. -/
def Obligations.WbitRuns : Prop :=
  ∀ (b : Bool) (s : State), s.busy = false → noRstFor 65 s.host = true →
    CompletesIn (.wbit b) s 65
      { afterCmd (.wbit b) 65 s with
        trace := fullTrace s ++ (if b then [.drv .L, .dly 10, .drv .H, .dly 55] else [.drv .L, .dly 60, .drv .H, .dly 5]) }

/-- R125, R126: `RBIT`. Its trace, `SHREG` and `DATA` the one bit (`H` is 1), 64 µs. -/
def Obligations.RbitRuns : Prop :=
  ∀ s : State, s.busy = false → noRstFor 64 s.host = true →
    CompletesIn .rbit s 64
      { afterCmd .rbit 64 s with
        shreg := if readAnswer s.env (fullTrace s) s.choice = .H then 1 else 0
        data := if readAnswer s.env (fullTrace s) s.choice = .H then 1 else 0
        trace := fullTrace s ++ [.drv .L, .dly 2, .drv .H, .dly 12,
          .smp (readAnswer s.env (fullTrace s) s.choice), .dly 50]
        choice := s.choice + 1 }

/-- R141: `WBYTE d`. Eight write slots, bit 0 first, `SHREG <- d`, 520 µs. -/
def Obligations.WbyteRuns : Prop :=
  ∀ (d : Byte) (s : State), s.busy = false → noRstFor 520 s.host = true →
    CompletesIn (.wbyte d) s 520
      { afterCmd (.wbyte d) 520 s with
        shreg := d
        trace := fullTrace s ++ [0, 1, 2, 3, 4, 5, 6, 7].flatMap fun i =>
          if d.getLsbD i then [.drv .L, .dly 10, .drv .H, .dly 55] else [.drv .L, .dly 60, .drv .H, .dly 5] }

/-- R143, R65: `RBYTE`. Eight read slots, `SHREG` and `DATA` the byte whose bit `i` is the answer to slot `i`, 512 µs. -/
def Obligations.RbyteRuns : Prop :=
  ∀ s : State, s.busy = false → noRstFor 512 s.host = true →
    CompletesIn .rbyte s 512
      { afterCmd .rbyte 512 s with
        shreg := byteOfLevels (readAnswers s.env 8 (fullTrace s) s.choice)
        data := byteOfLevels (readAnswers s.env 8 (fullTrace s) s.choice)
        trace := fullTrace s ++ readTraces (readAnswers s.env 8 (fullTrace s) s.choice)
        choice := s.choice + 8 }

/-- R100, R104: the three command bytes on the line, slot by slot in time order, 520 µs each. -/
def Obligations.LineCommandsSendTheirSlots : Prop :=
  ∀ s : State, s.busy = false → noRstFor 520 s.host = true →
    CompletesIn .skipRom s 520
        { afterCmd .skipRom 520 s with
          shreg := 0xCC
          trace := fullTrace s
            ++ [false, false, true, true, false, false, true, true].flatMap writeTrace }
      ∧ CompletesIn .convertT s 520
        { afterCmd .convertT 520 s with
          shreg := 0x44
          trace := fullTrace s
            ++ [false, false, true, false, false, false, true, false].flatMap writeTrace }
      ∧ CompletesIn .readSp s 520
        { afterCmd .readSp 520 s with
          shreg := 0xBE
          trace := fullTrace s
            ++ [false, true, true, true, true, true, false, true].flatMap writeTrace }

/-- R150, R154, R182: `MEASURE` where both resets find a device: 755,244 µs, the two bytes as answered, decoded. -/
def Obligations.MeasureSucceeds : Prop :=
  ∀ s : State, s.busy = false → noRstFor 755244 s.host = true →
    resetAnswer s.env (fullTrace s) s.choice = .L →
    resetAnswer s.env (measureTrace1 (fullTrace s) .L) (s.choice + 1) = .L →
      CompletesIn .measure s 755244
        { afterCmd .measure 755244 s with
          presence := true
          shreg := byteOfLevels (measureMsbAnswers s)
          spLsb := byteOfLevels (measureLsbAnswers s)
          spMsb := byteOfLevels (measureMsbAnswers s)
          t16 := BitVec.ofInt 32 (signExt s.decodeMode
            (assembleBytes (byteOfLevels (measureLsbAnswers s)) (byteOfLevels (measureMsbAnswers s))))
          temp10 := BitVec.ofInt 32
            (decodeTemp s.decodeMode (byteOfLevels (measureLsbAnswers s)) (byteOfLevels (measureMsbAnswers s)))
          valid := true
          trace := measureTrace2 (fullTrace s) ++ readTraces (measureLsbAnswers s) ++ readTraces (measureMsbAnswers s)
          choice := s.choice + 18 }

/-- R151, R191, R192: `MEASURE` where the first reset finds nothing: 1,070 µs, no byte written or read, the sentinel,
one `Ntf`, `err_ind`. -/
def Obligations.MeasureFirstExit : Prop :=
  ∀ s : State, s.busy = false → noRstFor 1070 s.host = true →
    resetAnswer s.env (fullTrace s) s.choice = .H →
      CompletesIn .measure s 1070
        { afterCmd .measure 1070 s with
          presence := false, valid := false, spLsb := 0, spMsb := 0, t16 := 0, temp10 := -9990
          errcode := .notPresent, errInd := true
          trace := fullTrace s ++ [.drv .L, .dly 500, .drv .H, .dly 70, .smp .H, .dly 500, .ntf]
          choice := s.choice + 1 }

/-- R151, R152: `MEASURE` where the second reset finds nothing: 753,180 µs, the bytes 0xCC and 0x44 written and none
read, the sentinel, one `Ntf`, `err_ind`. -/
def Obligations.MeasureSecondExit : Prop :=
  ∀ s : State, s.busy = false → noRstFor 753180 s.host = true →
    resetAnswer s.env (fullTrace s) s.choice = .L →
    resetAnswer s.env (measureTrace1 (fullTrace s) .L) (s.choice + 1) = .H →
      CompletesIn .measure s 753180
        { afterCmd .measure 753180 s with
          presence := false, valid := false, spLsb := 0, spMsb := 0, t16 := 0, temp10 := -9990
          shreg := 0x44, errcode := .notPresent, errInd := true
          trace := measureTrace1 (fullTrace s) .L ++ [.drv .L, .dly 500, .drv .H, .dly 70, .smp .H, .dly 500, .ntf]
          choice := s.choice + 2 }

/-- R34: the tick-level block and the command rules agree. For every instruction, every idle state and every environment,
acceptance and then ticks until `BUSY = 0` end in the state the command rule gives, after the duration it gives. -/
def Obligations.TicksAgreeWithTheCommandRules : Prop :=
  ∀ (i : Instr) (s : State), s.busy = false → noRstFor (cmdDuration i s) s.host = true →
    CompletesIn i s (cmdDuration i s)
      { runCmd i s with host := hostAfterBusy (cmdDuration i s) s.host }

/-- R74, R237: a whole program. The host presents each word, held until taken, with the gap it likes before it; the run
ends in the state the command rules give one after the other, illegal words (R193) among them. -/
def Obligations.ProgramsRunCommandByCommand : Prop :=
  ∀ (ps : List Issue) (s : State), s.busy = false → s.host = programPorts ps →
    ∃ n, runSteps n s = .next { runProgram ps s with host := [] }

/-- R235: what a command appends to the trace has the duration, the falling edges and the samples of the table. -/
def Obligations.TracesMatchTheTimingTable : Prop :=
  ∀ (i : Instr) (s : State), ∃ tr,
    fullTrace (runCmd i s) = fullTrace s ++ tr ∧ elapsed tr = cmdDuration i s
      ∧ (fallingEdges .H tr, (samplesOf tr).length, elapsed tr) ∈
          match i with
          | .reset => [(1, 1, 1070)]
          | .wbit _ => [(1, 0, 65)]
          | .wbyte _ | .skipRom | .convertT | .readSp => [(8, 0, 520)]
          | .rbit => [(1, 1, 64)]
          | .rbyte => [(8, 8, 512)]
          | .measure => [(50, 18, 755244), (1, 1, 1070), (18, 2, 753180)]

/-- R127, R97, R128: the four slot waveforms at every instant, from a released line: low, then high to the end; one
falling and one rising edge; and where the two sampling slots sample. -/
def Obligations.SlotWaveforms : Prop :=
  (∀ (v : Level) (t : Nat),
      waveform .H (resetTrace v) t = (if t < 500 then .L else .H) ∧ elapsed (resetTrace v) = 1070
        ∧ elapsed ((resetTrace v).takeWhile fun e => e != .smp v) = 570
        ∧ waveform .H (readTrace v) t = (if t < 2 then .L else .H) ∧ elapsed (readTrace v) = 64
        ∧ elapsed ((readTrace v).takeWhile fun e => e != .smp v) = 14
        ∧ fallingEdges .H (resetTrace v) = 1 ∧ risingEdges .H (resetTrace v) = 1
        ∧ fallingEdges .H (readTrace v) = 1 ∧ risingEdges .H (readTrace v) = 1)
    ∧ ∀ (b : Bool) (t : Nat),
      waveform .H (writeTrace b) t = (if t < (if b then 10 else 60) then .L else .H) ∧ elapsed (writeTrace b) = 65
        ∧ fallingEdges .H (writeTrace b) = 1 ∧ risingEdges .H (writeTrace b) = 1

/-- R141: the low time of a written byte is `10 × ones + 60 × (8 − ones)` µs. -/
def Obligations.WbyteLowTime : Prop :=
  ∀ d : Byte,
    lowTime .H (writeByteTrace d)
      = 10 * ((List.range 8).countP fun i => d.getLsbD i) + 60 * (8 - (List.range 8).countP fun i => d.getLsbD i)

/-- R142, R144: `WBYTE` and `RBYTE` against eight slot commands with no gap: same trace; `DATA` of `RBYTE` is made of
the eight `DATA[0]`. The end of `WBYTE` is that of the eight `WBIT` but for `OP`, `ARG` and `SHREG`; `SHREG` is where R142
disagrees with R124 and R141 (log entry 9): eight `WBIT` leave it alone (R124). -/
def Obligations.ByteCommandsEqualEightSlots : Prop :=
  ∀ s : State,
    (∀ d : Byte,
        (cmdWbyte d s).trace = (eightWbits d s).trace
          ∧ cmdWbyte d s = { eightWbits d s with op := .wbyte, arg := d, shreg := d }
          ∧ cmdDuration (.wbyte d) s = ((List.range 8).map fun i => cmdDuration (.wbit (d.getLsbD i)) s).sum
          ∧ (eightWbits d s).shreg = s.shreg)
      ∧ (cmdRbyte s).trace = (cmdRbit^[8] s).trace
      ∧ cmdDuration .rbyte s = 8 * cmdDuration .rbit s
      ∧ ∀ i, i < 8 → (cmdRbyte s).data.getLsbD i = (cmdRbit^[i + 1] s).data.getLsbD 0

/-- R142: `WBYTE d` equals its expansion, `SHREG <- d` and then the eight `WBIT` as R141 has it, in trace, duration and
final `SHREG`, and in everything else but `OP` and `ARG`. That the expansion takes in `SHREG <- d` is DEDUCED (log entry 9):
the eight `WBIT` alone end with the `SHREG` of `WBYTE d` exactly where `SHREG` held `d` before them. -/
def Obligations.WbyteEqualsItsExpansion : Prop :=
  ∀ (d : Byte) (s : State),
    (cmdWbyte d s).trace = (wbyteExpansion d s).trace
      ∧ cmdDuration (.wbyte d) s = ((List.range 8).map fun i => cmdDuration (.wbit (d.getLsbD i)) s).sum
      ∧ (cmdWbyte d s).shreg = (wbyteExpansion d s).shreg
      ∧ cmdWbyte d s = { wbyteExpansion d s with op := .wbyte, arg := d }
      ∧ ((eightWbits d s).shreg = (cmdWbyte d s).shreg ↔ s.shreg = d)

/-- R158, R104: `MEASURE` against the host's own sequence with a wait of exactly 750,000 µs and no other gap: where both
resets find a device, the same trace, the same bytes, the same temperature. -/
def Obligations.MeasureEqualsItsExpansion : Prop :=
  ∀ s h1 h2 r1 r2 : State,
    h1 = cmdWbyte 0x44 (cmdWbyte 0xCC (cmdReset s)) →
    h2 = cmdReset (gapOf 750000 h1) →
    r1 = cmdRbyte (cmdWbyte 0xBE (cmdWbyte 0xCC h2)) → r2 = cmdRbyte r1 →
    (cmdReset s).presence = true → h2.presence = true →
      (cmdMeasure s).trace = r2.trace ∧ (cmdMeasure s).spLsb = r1.data ∧ (cmdMeasure s).spMsb = r2.data
        ∧ (cmdMeasure s).temp10.toInt = decodeTemp s.decodeMode r1.data r2.data

/-! ## Under the stub environments (spec/20_memory.md R81 to R83) -/

/-- R81: an empty line. Every `RESET` gives `PRESENCE = 0`, every `RBIT` 1, every `RBYTE` 0xFF; `MEASURE` gives the
sentinel (spec/95_test_vectors.md S1). -/
def Obligations.AbsentLineReadsOnes : Prop :=
  ∀ s : State, s.env = .absent →
    (cmdReset s).presence = false ∧ (cmdRbit s).data = 1 ∧ (cmdRbyte s).data = 0xFF
      ∧ (cmdMeasure s).errcode = .notPresent ∧ (cmdMeasure s).temp10 = -9990
      ∧ (cmdMeasure s).valid = false
      ∧ fullTrace (cmdMeasure s) = fullTrace s ++ [.drv .L, .dly 500, .drv .H, .dly 70, .smp .H, .dly 500, .ntf]

/-- R150, R66, R82, R182: under `SensorStub(lsb, msb)`, in both decode modes, `MEASURE` reads exactly those two bytes,
least-significant byte first, and reports their decoding. -/
def Obligations.SensorStubIsMeasured : Prop :=
  ∀ (s : State) (lsb msb : Byte), s.busy = false → s.env = .sensor lsb msb → noRstFor 755244 s.host = true →
    ∃ u, CompletesIn .measure s 755244 u
      ∧ u.spLsb = lsb ∧ u.spMsb = msb ∧ u.valid = true ∧ u.errcode = .none ∧ u.presence = true
      ∧ u.t16.toInt = signExt s.decodeMode (assembleBytes lsb msb)
      ∧ u.temp10.toInt = decodeTemp s.decodeMode lsb msb ∧ u.data = s.data

/-- R157: two consecutive measurements of the same sensor agree, whatever the first one started from. -/
def Obligations.MeasureIsIdempotent : Prop :=
  ∀ (s : State) (lsb msb : Byte), s.env = .sensor lsb msb →
    (cmdMeasure (cmdMeasure s)).spLsb = (cmdMeasure s).spLsb
      ∧ (cmdMeasure (cmdMeasure s)).spMsb = (cmdMeasure s).spMsb
      ∧ (cmdMeasure (cmdMeasure s)).t16 = (cmdMeasure s).t16
      ∧ (cmdMeasure (cmdMeasure s)).temp10 = (cmdMeasure s).temp10
      ∧ (cmdMeasure (cmdMeasure s)).valid = true

/-- R145: under `LoopbackStub` with an empty queue, `WBYTE d; RBYTE` ends with `DATA = d`, for every `d`, and the eight
write slots carry `d[0]` first. -/
def Obligations.LoopbackRoundTrip : Prop :=
  ∀ (s : State) (d : Byte), s.env = .loopback → loopbackQueue [] (fullTrace s) = [] →
    (cmdRbyte (cmdWbyte d s)).data = d
      ∧ fullTrace (cmdWbyte d s) = fullTrace s ++ [0, 1, 2, 3, 4, 5, 6, 7].flatMap fun i => writeTrace (d.getLsbD i)

/-! ## Invariants and rules over every step -/

/-- R41: reset has the invariant. -/
def Obligations.ResetHasInv : Prop := BlockInv State.reset

/-- R25 to R33, R128, R182, R190: every step, of every kind, keeps the invariant. -/
def Obligations.StepKeepsInv : Prop := ∀ s t : State, BlockInv s → step s = .next t → BlockInv t

/-- R26: where the invariant holds the block never stops: every step, whatever the host and the line do, has a next
state. -/
def Obligations.StepNeverStops : Prop := ∀ s : State, BlockInv s → ∃ t, step s = .next t

/-- R236: a busy block is idle again after at most 755,244 ticks, whatever the environment answers, unless `rst` cuts
the command. -/
def Obligations.EveryCommandEnds : Prop :=
  ∀ s : State, BlockInv s → s.busy = true → noRstFor 755244 s.host = true →
    ∃ n t, n ≤ 755244 ∧ runSteps n s = .next t ∧ t.busy = false ∧ t.done = true

/-- R35: without `rst`, `PRESENCE` is written by the presence sample of a reset slot and by nothing else. -/
def Obligations.OnlyPresenceSampleWritesPresence : Prop :=
  ∀ s t : State, (portNow s).rst = false → step s = .next t → t.presence ≠ s.presence →
    s.busy = true ∧ s.prim = .reset ∧ s.seg = 1 ∧ s.timer.toNat ≤ 1

/-- R22: without `rst`, `DATA` is written only at the end of an `RBIT` or `RBYTE`, from `SHREG`. -/
def Obligations.OnlyReadCommandsWriteData : Prop :=
  ∀ s t : State, (portNow s).rst = false → step s = .next t → t.data ≠ s.data →
    s.busy = true ∧ (s.op = .rbit ∨ s.op = .rbyte) ∧ t.busy = false ∧ t.done = true ∧ t.data = t.shreg

/-- R22, R35: without `rst`, the results are written only by `MEASURE`: cleared when it is accepted, or written while
it runs. -/
def Obligations.OnlyMeasureWritesResults : Prop :=
  ∀ s t : State, BlockInv s → (portNow s).rst = false → step s = .next t →
    (t.valid ≠ s.valid ∨ t.t16 ≠ s.t16 ∨ t.temp10 ≠ s.temp10 ∨ t.spLsb ≠ s.spLsb ∨ t.spMsb ≠ s.spMsb) →
      (s.busy = true ∧ s.op = .measure)
        ∨ (s.busy = false ∧ fetch s = .instr .measure ∧ t.valid = false ∧ t.t16 = 0 ∧ t.temp10 = 0 ∧ t.spLsb = 0
            ∧ t.spMsb = 0)

/-- R38: no step, `rst` among them, changes the strap. -/
def Obligations.StrapNeverChanges : Prop :=
  ∀ s t : State, step s = .next t → t.decodeMode = s.decodeMode

/-- R196: of a busy block's ticks only the one that ends a `MEASURE` in `NotPresent` raises `err_ind`, and it always
does; a tick of an idle block lowers it; taking a word, legal or illegal, is no tick and leaves it as it is. -/
def Obligations.ErrIndIsOneTick : Prop :=
  ∀ s t : State, BlockInv s → (portNow s).rst = false → step s = .next t →
    (s.busy = true → (t.errInd = true ↔ s.op = .measure ∧ t.busy = false ∧ t.errcode = .notPresent))
      ∧ (s.busy = false → fetch s = .nothing → t.errInd = false)
      ∧ (s.busy = false → fetch s ≠ .nothing → t.errInd = s.errInd)

/-- R30, R74: no step takes anything back from the trace, and the trace lasts one microsecond longer after a tick and no
longer after anything else (log entry 10). -/
def Obligations.TraceOnlyGrows : Prop :=
  ∀ s t : State, step s = .next t →
    (∃ evs, (flush t).trace = s.trace ++ evs)
      ∧ elapsed (fullTrace t) = elapsed (fullTrace s)
          + (if (portNow s).rst = false ∧ (s.busy = true ∨ fetch s = .nothing) then 1 else 0)

/-- R62: the block samples only with the line released, so that a sample is the environment's answer alone. -/
def Obligations.SamplesAreTheEnvironments : Prop :=
  ∀ (s : State) (r : Segment), BlockInv s → s.busy = true → segTable s.prim s.wb s.seg = some r → r.smp ≠ .none →
    sampledLevel (flush s) = envAnswer s.env (flush s).trace s.choice

/-! ## The ports (spec/10_state.md R21, R37) -/

/-- R37: the read map, bit by bit for `STATUS`, by value for the rest; `rd_data` shows the entry `rd_sel` selects. A
read has no side effect (R24, R71): in every state, busy or idle, a step is the same whatever `rd_sel` is, the host's own
list of port values apart. -/
def Obligations.ReadMapShowsTheRegisters : Prop :=
  ∀ s : State,
    rdData s = readMap s (portNow s).rdSel
      ∧ ((readMap s 0).getLsbD 0 = s.busy ∧ (readMap s 0).getLsbD 1 = s.done ∧ (readMap s 0).getLsbD 2 = s.presence
        ∧ (readMap s 0).getLsbD 3 = s.valid ∧ (readMap s 0).extractLsb' 4 2 = errNumber s.errcode
        ∧ (readMap s 0).getLsbD 6 = (s.owOut == .H) ∧ (readMap s 0).extractLsb' 7 25 = 0)
      ∧ (readMap s 1).toNat = s.data.toNat ∧ (readMap s 2).toNat = s.spLsb.toNat ∧ (readMap s 3).toNat = s.spMsb.toNat
      ∧ (readMap s 4).toNat = 256 * s.spMsb.toNat + s.spLsb.toNat ∧ readMap s 5 = s.t16 ∧ readMap s 6 = s.temp10
      ∧ (readMap s 7).toNat = (if s.decodeMode = .legacy4096 then 1 else 0)
      ∧ ∀ (p : PortIn) (rest : List PortIn) (sel : BitVec 3) (t : State), s.host = p :: rest → step s = .next t →
          step { s with host := { p with rdSel := sel } :: rest }
            = .next { t with
                host := if p.rst = false ∧ p.hold = true ∧ s.busy = true then { p with rdSel := sel } :: rest else rest }

/-! ## The decoder (spec/43_scratchpad_decoder.md) -/

/-- R170: assembly is `256 × msb + lsb`, and swapping the bytes gives another value unless they are equal. -/
def Obligations.AssembleIsTheSum : Prop :=
  ∀ lsb msb : Byte,
    (assembleBytes lsb msb).toNat = 256 * msb.toNat + lsb.toNat ∧ assembleBytes lsb msb = msb ++ lsb
      ∧ (assembleBytes lsb msb = assembleBytes msb lsb → lsb = msb)

/-- R171: where the two predicates hold, and that the sensor's range implies a proper sign extension. -/
def Obligations.RawPredicates : Prop :=
  ∀ raw : BitVec 16,
    (signExtOk raw = true ↔ ∀ i, 11 ≤ i → i ≤ 15 → raw.getLsbD i = raw.getLsbD 15)
      ∧ (signExtOk raw = true ↔ raw.toNat ≤ 0x07FF ∨ 0xF800 ≤ raw.toNat)
      ∧ (inSensorRange raw = true ↔ -880 ≤ raw.toInt ∧ raw.toInt ≤ 2000)
      ∧ (inSensorRange raw = true ↔ raw.toNat ≤ 0x07D0 ∨ 0xFC90 ≤ raw.toNat)
      ∧ (inSensorRange raw = true → signExtOk raw = true)

/-- R172: both decode modes on every raw value. -/
def Obligations.SignExtInBothModes : Prop :=
  ∀ raw : BitVec 16,
    signExt .twos16 raw = (if raw.toNat ≤ 0x7FFF then (raw.toNat : Int) else raw.toNat - 65536)
      ∧ signExt .legacy4096 raw = (if 0x7FF < raw.toNat then (raw.toNat : Int) - 4096 else raw.toNat)

/-- R173, (a) to (e): how the two modes and the twelve-bit reading relate. -/
def Obligations.DecodeModesRelate : Prop :=
  ∀ raw : BitVec 16,
    (raw.toNat ≤ 0x07FF →
        signExt .twos16 raw = raw.toNat ∧ signExt .legacy4096 raw = raw.toNat ∧ s12 raw = raw.toNat)
      ∧ (0x0800 ≤ raw.toNat → raw.toNat ≤ 0x0FFF →
        signExt .legacy4096 raw = raw.toNat - 4096 ∧ s12 raw = raw.toNat - 4096 ∧ signExt .legacy4096 raw < 0
          ∧ signExt .twos16 raw = raw.toNat ∧ 0 < signExt .twos16 raw ∧ signExtOk raw = false)
      ∧ (0xF800 ≤ raw.toNat →
        signExt .twos16 raw = raw.toNat - 65536 ∧ s12 raw = raw.toNat - 65536 ∧ signExt .twos16 raw < 0
          ∧ signExt .legacy4096 raw = raw.toNat - 4096 ∧ 59392 ≤ signExt .legacy4096 raw
          ∧ signExt .legacy4096 raw ≤ 61439)
      ∧ (signExtOk raw = true → signExt .twos16 raw = s12 raw)
      ∧ (signExtOk raw = true → raw.getLsbD 15 = false → signExt .twos16 raw = signExt .legacy4096 raw)
      ∧ signExt .legacy4096 raw - signExt .twos16 raw
          = (if raw.toNat ≤ 0x07FF then 0 else if raw.toNat ≤ 0x7FFF then -4096 else 61440)

/-- R174: `T16` as a fixed-point number: the floor of `T16 / 16` and a fraction of 0 to 15 sixteenths, for both signs. -/
def Obligations.FixedPointParts : Prop :=
  ∀ t : Word32,
    (wholeDegrees t).toInt = t.toInt / 16 ∧ t.toInt = 16 * (wholeDegrees t).toInt + (sixteenths t).toNat

/-- R175: rounding to the nearest tenth: `n` is the result exactly where `n − 1/2 ≤ 10t/16 < n + 1/2`, so that a tie goes
up; a tie is `t mod 8 = 4`; away from ties rounding is symmetric. -/
def Obligations.RoundIsNearestTiesUp : Prop :=
  ∀ t n : Int,
    (round10 t = n ↔ 16 * n - 8 ≤ 10 * t ∧ 10 * t < 16 * n + 8)
      ∧ ((10 * t) % 16 = 8 ↔ t % 8 = 4)
      ∧ (t % 8 ≠ 4 → round10 (-t) = -round10 t)

/-- R181, (a) to (e). -/
def Obligations.RoundProperties : Prop :=
  (∀ t u : Int, t ≤ u → round10 t ≤ round10 u)
    ∧ (∀ t : Int, |16 * round10 t - 10 * t| ≤ 8 ∧ (|16 * round10 t - 10 * t| = 8 ↔ t % 8 = 4))
    ∧ (∀ k : Int, round10 (8 * k) = 5 * k)
    ∧ (∀ t : Int, round10 (t + 16) = round10 t + 10)
    ∧ (List.range 16).map (fun t => round10 (t : Int)) = [0, 1, 1, 2, 3, 3, 4, 4, 5, 6, 6, 7, 8, 8, 9, 9]

/-- R178: the ranges of every quantity, per mode. -/
def Obligations.DecoderRanges : Prop :=
  ∀ raw : BitVec 16,
    (-32768 ≤ signExt .twos16 raw ∧ signExt .twos16 raw ≤ 32767)
      ∧ (-2048 ≤ signExt .legacy4096 raw ∧ signExt .legacy4096 raw ≤ 61439)
      ∧ (-327672 ≤ 10 * signExt .twos16 raw + 8 ∧ 10 * signExt .twos16 raw + 8 ≤ 327678)
      ∧ (-20472 ≤ 10 * signExt .legacy4096 raw + 8 ∧ 10 * signExt .legacy4096 raw + 8 ≤ 614398)
      ∧ (-20480 ≤ round10 (signExt .twos16 raw) ∧ round10 (signExt .twos16 raw) ≤ 20479)
      ∧ (-1280 ≤ round10 (signExt .legacy4096 raw) ∧ round10 (signExt .legacy4096 raw) ≤ 38399)
      ∧ (inSensorRange raw = true →
        -880 ≤ signExt .twos16 raw ∧ signExt .twos16 raw ≤ 2000
          ∧ -550 ≤ round10 (signExt .twos16 raw) ∧ round10 (signExt .twos16 raw) ≤ 1250)

/-- R175, R178, R180: in both modes nothing overflows the 32-bit registers, and the hardware's multiply, add and shift on
`T16` give what `TEMP10` is given. -/
def Obligations.HardwareArithmeticIsExact : Prop :=
  ∀ (mode : DecodeMode) (raw : BitVec 16),
    (BitVec.ofInt 32 (signExt mode raw)).toInt = signExt mode raw
      ∧ (BitVec.ofInt 32 (round10 (signExt mode raw))).toInt = round10 (signExt mode raw)
      ∧ round10Word (BitVec.ofInt 32 (signExt mode raw)) = BitVec.ofInt 32 (round10 (signExt mode raw))

/-- R229: the sentinel's number is decoded from 0xC190 and from no other value, and only in `TWOS16`. -/
def Obligations.SentinelCollision : Prop :=
  ∀ raw : BitVec 16,
    (round10 (signExt .twos16 raw) = -9990 ↔ raw = 0xC190) ∧ round10 (signExt .legacy4096 raw) ≠ -9990

/-- R156, R229: with a result or an absence recorded, `TEMP10` is −9990 exactly on absence or, in `TWOS16`, on 0xC190;
and `GETWATERTEMP` returns −999 on absence and `TEMP10 / 10` otherwise. -/
def Obligations.SentinelWrapper : Prop :=
  ∀ s : State, BlockInv s → s.valid = true ∨ s.errcode = .notPresent →
    (s.temp10.toInt = -9990 ↔ s.errcode = .notPresent ∨ (s.decodeMode = .twos16 ∧ rawOf s = 0xC190))
      ∧ (s.errcode = .notPresent → getWaterTemp s = -999 ∧ (s.temp10.toInt : Rat) / 10 = -999)
      ∧ (s.valid = true → getWaterTemp s = (decodeTemp s.decodeMode s.spLsb s.spMsb : Rat) / 10)

/-- R179: the formatted parts are the number again, with one tenth digit, and the sign is kept where `whole = 0`. -/
def Obligations.FormatIsTheNumber : Prop :=
  ∀ n : Int,
    n = (if (format10 n).neg then -1 else 1) * (10 * (format10 n).whole + (format10 n).tenth : Int)
      ∧ (format10 n).tenth < 10 ∧ ((format10 n).neg = true ↔ n < 0)
end

