-- ==== Sys2Proof/Laws/State.lean ====
section
/-! SUPPORT. One lemma per field per operation that is a plain update of the state, so that no proof unfolds one. -/

namespace Sys2Proof.Machine

/-! ## `flush` -/
@[simp] theorem flush_shreg (s : State) : (flush s).shreg = s.shreg := by
  unfold flush; split <;> rfl
@[simp] theorem flush_data (s : State) : (flush s).data = s.data := by
  unfold flush; split <;> rfl
@[simp] theorem flush_spLsb (s : State) : (flush s).spLsb = s.spLsb := by
  unfold flush; split <;> rfl
@[simp] theorem flush_spMsb (s : State) : (flush s).spMsb = s.spMsb := by
  unfold flush; split <;> rfl
@[simp] theorem flush_t16 (s : State) : (flush s).t16 = s.t16 := by
  unfold flush; split <;> rfl
@[simp] theorem flush_temp10 (s : State) : (flush s).temp10 = s.temp10 := by
  unfold flush; split <;> rfl
@[simp] theorem flush_op (s : State) : (flush s).op = s.op := by
  unfold flush; split <;> rfl
@[simp] theorem flush_arg (s : State) : (flush s).arg = s.arg := by
  unfold flush; split <;> rfl
@[simp] theorem flush_mstep (s : State) : (flush s).mstep = s.mstep := by
  unfold flush; split <;> rfl
@[simp] theorem flush_prim (s : State) : (flush s).prim = s.prim := by
  unfold flush; split <;> rfl
@[simp] theorem flush_wb (s : State) : (flush s).wb = s.wb := by
  unfold flush; split <;> rfl
@[simp] theorem flush_seg (s : State) : (flush s).seg = s.seg := by
  unfold flush; split <;> rfl
@[simp] theorem flush_byteMode (s : State) : (flush s).byteMode = s.byteMode := by
  unfold flush; split <;> rfl
@[simp] theorem flush_bitIdx (s : State) : (flush s).bitIdx = s.bitIdx := by
  unfold flush; split <;> rfl
@[simp] theorem flush_timer (s : State) : (flush s).timer = s.timer := by
  unfold flush; split <;> rfl
@[simp] theorem flush_owOut (s : State) : (flush s).owOut = s.owOut := by
  unfold flush; split <;> rfl
@[simp] theorem flush_busy (s : State) : (flush s).busy = s.busy := by
  unfold flush; split <;> rfl
@[simp] theorem flush_done (s : State) : (flush s).done = s.done := by
  unfold flush; split <;> rfl
@[simp] theorem flush_presence (s : State) : (flush s).presence = s.presence := by
  unfold flush; split <;> rfl
@[simp] theorem flush_valid (s : State) : (flush s).valid = s.valid := by
  unfold flush; split <;> rfl
@[simp] theorem flush_errcode (s : State) : (flush s).errcode = s.errcode := by
  unfold flush; split <;> rfl
@[simp] theorem flush_decodeMode (s : State) : (flush s).decodeMode = s.decodeMode := by
  unfold flush; split <;> rfl
@[simp] theorem flush_errInd (s : State) : (flush s).errInd = s.errInd := by
  unfold flush; split <;> rfl
@[simp] theorem flush_host (s : State) : (flush s).host = s.host := by
  unfold flush; split <;> rfl
@[simp] theorem flush_env (s : State) : (flush s).env = s.env := by
  unfold flush; split <;> rfl
@[simp] theorem flush_choice (s : State) : (flush s).choice = s.choice := by
  unfold flush; split <;> rfl
@[simp] theorem flush_trace (s : State) : (flush s).trace = fullTrace s := by
  unfold flush fullTrace; split <;> rfl
@[simp] theorem flush_cur (s : State) : (flush s).cur = 0 := by
  unfold flush; split <;> first | assumption | rfl

/-! ## `hostMoves` -/
@[simp] theorem hostMoves_shreg (s : State) : (hostMoves s).shreg = s.shreg := by
  unfold hostMoves; split <;> rfl
@[simp] theorem hostMoves_data (s : State) : (hostMoves s).data = s.data := by
  unfold hostMoves; split <;> rfl
@[simp] theorem hostMoves_spLsb (s : State) : (hostMoves s).spLsb = s.spLsb := by
  unfold hostMoves; split <;> rfl
@[simp] theorem hostMoves_spMsb (s : State) : (hostMoves s).spMsb = s.spMsb := by
  unfold hostMoves; split <;> rfl
@[simp] theorem hostMoves_t16 (s : State) : (hostMoves s).t16 = s.t16 := by
  unfold hostMoves; split <;> rfl
@[simp] theorem hostMoves_temp10 (s : State) : (hostMoves s).temp10 = s.temp10 := by
  unfold hostMoves; split <;> rfl
@[simp] theorem hostMoves_op (s : State) : (hostMoves s).op = s.op := by
  unfold hostMoves; split <;> rfl
@[simp] theorem hostMoves_arg (s : State) : (hostMoves s).arg = s.arg := by
  unfold hostMoves; split <;> rfl
@[simp] theorem hostMoves_mstep (s : State) : (hostMoves s).mstep = s.mstep := by
  unfold hostMoves; split <;> rfl
@[simp] theorem hostMoves_prim (s : State) : (hostMoves s).prim = s.prim := by
  unfold hostMoves; split <;> rfl
@[simp] theorem hostMoves_wb (s : State) : (hostMoves s).wb = s.wb := by
  unfold hostMoves; split <;> rfl
@[simp] theorem hostMoves_seg (s : State) : (hostMoves s).seg = s.seg := by
  unfold hostMoves; split <;> rfl
@[simp] theorem hostMoves_byteMode (s : State) : (hostMoves s).byteMode = s.byteMode := by
  unfold hostMoves; split <;> rfl
@[simp] theorem hostMoves_bitIdx (s : State) : (hostMoves s).bitIdx = s.bitIdx := by
  unfold hostMoves; split <;> rfl
@[simp] theorem hostMoves_timer (s : State) : (hostMoves s).timer = s.timer := by
  unfold hostMoves; split <;> rfl
@[simp] theorem hostMoves_owOut (s : State) : (hostMoves s).owOut = s.owOut := by
  unfold hostMoves; split <;> rfl
@[simp] theorem hostMoves_busy (s : State) : (hostMoves s).busy = s.busy := by
  unfold hostMoves; split <;> rfl
@[simp] theorem hostMoves_done (s : State) : (hostMoves s).done = s.done := by
  unfold hostMoves; split <;> rfl
@[simp] theorem hostMoves_presence (s : State) : (hostMoves s).presence = s.presence := by
  unfold hostMoves; split <;> rfl
@[simp] theorem hostMoves_valid (s : State) : (hostMoves s).valid = s.valid := by
  unfold hostMoves; split <;> rfl
@[simp] theorem hostMoves_errcode (s : State) : (hostMoves s).errcode = s.errcode := by
  unfold hostMoves; split <;> rfl
@[simp] theorem hostMoves_decodeMode (s : State) : (hostMoves s).decodeMode = s.decodeMode := by
  unfold hostMoves; split <;> rfl
@[simp] theorem hostMoves_errInd (s : State) : (hostMoves s).errInd = s.errInd := by
  unfold hostMoves; split <;> rfl
@[simp] theorem hostMoves_env (s : State) : (hostMoves s).env = s.env := by
  unfold hostMoves; split <;> rfl
@[simp] theorem hostMoves_choice (s : State) : (hostMoves s).choice = s.choice := by
  unfold hostMoves; split <;> rfl
@[simp] theorem hostMoves_trace (s : State) : (hostMoves s).trace = s.trace := by
  unfold hostMoves; split <;> rfl
@[simp] theorem hostMoves_cur (s : State) : (hostMoves s).cur = s.cur := by
  unfold hostMoves; split <;> rfl

/-! ## `drive` -/
@[simp] theorem drive_shreg (l : Level) (s : State) : (drive l s).shreg = s.shreg := rfl
@[simp] theorem drive_data (l : Level) (s : State) : (drive l s).data = s.data := rfl
@[simp] theorem drive_spLsb (l : Level) (s : State) : (drive l s).spLsb = s.spLsb := rfl
@[simp] theorem drive_spMsb (l : Level) (s : State) : (drive l s).spMsb = s.spMsb := rfl
@[simp] theorem drive_t16 (l : Level) (s : State) : (drive l s).t16 = s.t16 := rfl
@[simp] theorem drive_temp10 (l : Level) (s : State) : (drive l s).temp10 = s.temp10 := rfl
@[simp] theorem drive_op (l : Level) (s : State) : (drive l s).op = s.op := rfl
@[simp] theorem drive_arg (l : Level) (s : State) : (drive l s).arg = s.arg := rfl
@[simp] theorem drive_mstep (l : Level) (s : State) : (drive l s).mstep = s.mstep := rfl
@[simp] theorem drive_prim (l : Level) (s : State) : (drive l s).prim = s.prim := rfl
@[simp] theorem drive_wb (l : Level) (s : State) : (drive l s).wb = s.wb := rfl
@[simp] theorem drive_seg (l : Level) (s : State) : (drive l s).seg = s.seg := rfl
@[simp] theorem drive_byteMode (l : Level) (s : State) : (drive l s).byteMode = s.byteMode := rfl
@[simp] theorem drive_bitIdx (l : Level) (s : State) : (drive l s).bitIdx = s.bitIdx := rfl
@[simp] theorem drive_timer (l : Level) (s : State) : (drive l s).timer = s.timer := rfl
@[simp] theorem drive_owOut (l : Level) (s : State) : (drive l s).owOut = l := rfl
@[simp] theorem drive_busy (l : Level) (s : State) : (drive l s).busy = s.busy := rfl
@[simp] theorem drive_done (l : Level) (s : State) : (drive l s).done = s.done := rfl
@[simp] theorem drive_presence (l : Level) (s : State) : (drive l s).presence = s.presence := rfl
@[simp] theorem drive_valid (l : Level) (s : State) : (drive l s).valid = s.valid := rfl
@[simp] theorem drive_errcode (l : Level) (s : State) : (drive l s).errcode = s.errcode := rfl
@[simp] theorem drive_decodeMode (l : Level) (s : State) : (drive l s).decodeMode = s.decodeMode := rfl
@[simp] theorem drive_errInd (l : Level) (s : State) : (drive l s).errInd = s.errInd := rfl
@[simp] theorem drive_host (l : Level) (s : State) : (drive l s).host = s.host := rfl
@[simp] theorem drive_env (l : Level) (s : State) : (drive l s).env = s.env := rfl
@[simp] theorem drive_choice (l : Level) (s : State) : (drive l s).choice = s.choice := rfl
@[simp] theorem drive_trace (l : Level) (s : State) : (drive l s).trace = s.trace ++ [.drv l] := rfl
@[simp] theorem drive_cur (l : Level) (s : State) : (drive l s).cur = s.cur := rfl

/-! ## `waitUs` -/
@[simp] theorem waitUs_shreg (n : Nat) (s : State) : (waitUs n s).shreg = s.shreg := rfl
@[simp] theorem waitUs_data (n : Nat) (s : State) : (waitUs n s).data = s.data := rfl
@[simp] theorem waitUs_spLsb (n : Nat) (s : State) : (waitUs n s).spLsb = s.spLsb := rfl
@[simp] theorem waitUs_spMsb (n : Nat) (s : State) : (waitUs n s).spMsb = s.spMsb := rfl
@[simp] theorem waitUs_t16 (n : Nat) (s : State) : (waitUs n s).t16 = s.t16 := rfl
@[simp] theorem waitUs_temp10 (n : Nat) (s : State) : (waitUs n s).temp10 = s.temp10 := rfl
@[simp] theorem waitUs_op (n : Nat) (s : State) : (waitUs n s).op = s.op := rfl
@[simp] theorem waitUs_arg (n : Nat) (s : State) : (waitUs n s).arg = s.arg := rfl
@[simp] theorem waitUs_mstep (n : Nat) (s : State) : (waitUs n s).mstep = s.mstep := rfl
@[simp] theorem waitUs_prim (n : Nat) (s : State) : (waitUs n s).prim = s.prim := rfl
@[simp] theorem waitUs_wb (n : Nat) (s : State) : (waitUs n s).wb = s.wb := rfl
@[simp] theorem waitUs_seg (n : Nat) (s : State) : (waitUs n s).seg = s.seg := rfl
@[simp] theorem waitUs_byteMode (n : Nat) (s : State) : (waitUs n s).byteMode = s.byteMode := rfl
@[simp] theorem waitUs_bitIdx (n : Nat) (s : State) : (waitUs n s).bitIdx = s.bitIdx := rfl
@[simp] theorem waitUs_timer (n : Nat) (s : State) : (waitUs n s).timer = s.timer := rfl
@[simp] theorem waitUs_owOut (n : Nat) (s : State) : (waitUs n s).owOut = s.owOut := rfl
@[simp] theorem waitUs_busy (n : Nat) (s : State) : (waitUs n s).busy = s.busy := rfl
@[simp] theorem waitUs_done (n : Nat) (s : State) : (waitUs n s).done = s.done := rfl
@[simp] theorem waitUs_presence (n : Nat) (s : State) : (waitUs n s).presence = s.presence := rfl
@[simp] theorem waitUs_valid (n : Nat) (s : State) : (waitUs n s).valid = s.valid := rfl
@[simp] theorem waitUs_errcode (n : Nat) (s : State) : (waitUs n s).errcode = s.errcode := rfl
@[simp] theorem waitUs_decodeMode (n : Nat) (s : State) : (waitUs n s).decodeMode = s.decodeMode := rfl
@[simp] theorem waitUs_errInd (n : Nat) (s : State) : (waitUs n s).errInd = s.errInd := rfl
@[simp] theorem waitUs_host (n : Nat) (s : State) : (waitUs n s).host = s.host := rfl
@[simp] theorem waitUs_env (n : Nat) (s : State) : (waitUs n s).env = s.env := rfl
@[simp] theorem waitUs_choice (n : Nat) (s : State) : (waitUs n s).choice = s.choice := rfl
@[simp] theorem waitUs_trace (n : Nat) (s : State) : (waitUs n s).trace = s.trace ++ [.dly n] := rfl
@[simp] theorem waitUs_cur (n : Nat) (s : State) : (waitUs n s).cur = s.cur := rfl

/-! ## `recordSample` -/
@[simp] theorem recordSample_shreg (s : State) : (recordSample s).shreg = s.shreg := rfl
@[simp] theorem recordSample_data (s : State) : (recordSample s).data = s.data := rfl
@[simp] theorem recordSample_spLsb (s : State) : (recordSample s).spLsb = s.spLsb := rfl
@[simp] theorem recordSample_spMsb (s : State) : (recordSample s).spMsb = s.spMsb := rfl
@[simp] theorem recordSample_t16 (s : State) : (recordSample s).t16 = s.t16 := rfl
@[simp] theorem recordSample_temp10 (s : State) : (recordSample s).temp10 = s.temp10 := rfl
@[simp] theorem recordSample_op (s : State) : (recordSample s).op = s.op := rfl
@[simp] theorem recordSample_arg (s : State) : (recordSample s).arg = s.arg := rfl
@[simp] theorem recordSample_mstep (s : State) : (recordSample s).mstep = s.mstep := rfl
@[simp] theorem recordSample_prim (s : State) : (recordSample s).prim = s.prim := rfl
@[simp] theorem recordSample_wb (s : State) : (recordSample s).wb = s.wb := rfl
@[simp] theorem recordSample_seg (s : State) : (recordSample s).seg = s.seg := rfl
@[simp] theorem recordSample_byteMode (s : State) : (recordSample s).byteMode = s.byteMode := rfl
@[simp] theorem recordSample_bitIdx (s : State) : (recordSample s).bitIdx = s.bitIdx := rfl
@[simp] theorem recordSample_timer (s : State) : (recordSample s).timer = s.timer := rfl
@[simp] theorem recordSample_owOut (s : State) : (recordSample s).owOut = s.owOut := rfl
@[simp] theorem recordSample_busy (s : State) : (recordSample s).busy = s.busy := rfl
@[simp] theorem recordSample_done (s : State) : (recordSample s).done = s.done := rfl
@[simp] theorem recordSample_presence (s : State) : (recordSample s).presence = s.presence := rfl
@[simp] theorem recordSample_valid (s : State) : (recordSample s).valid = s.valid := rfl
@[simp] theorem recordSample_errcode (s : State) : (recordSample s).errcode = s.errcode := rfl
@[simp] theorem recordSample_decodeMode (s : State) : (recordSample s).decodeMode = s.decodeMode := rfl
@[simp] theorem recordSample_errInd (s : State) : (recordSample s).errInd = s.errInd := rfl
@[simp] theorem recordSample_host (s : State) : (recordSample s).host = s.host := rfl
@[simp] theorem recordSample_env (s : State) : (recordSample s).env = s.env := rfl
@[simp] theorem recordSample_choice (s : State) : (recordSample s).choice = s.choice + 1 := rfl
@[simp] theorem recordSample_trace (s : State) : (recordSample s).trace = s.trace ++ [.smp (sampledLevel s)] := rfl
@[simp] theorem recordSample_cur (s : State) : (recordSample s).cur = s.cur := rfl

/-! ## `samplePresence` -/
@[simp] theorem samplePresence_shreg (s : State) : (samplePresence s).shreg = s.shreg := rfl
@[simp] theorem samplePresence_data (s : State) : (samplePresence s).data = s.data := rfl
@[simp] theorem samplePresence_spLsb (s : State) : (samplePresence s).spLsb = s.spLsb := rfl
@[simp] theorem samplePresence_spMsb (s : State) : (samplePresence s).spMsb = s.spMsb := rfl
@[simp] theorem samplePresence_t16 (s : State) : (samplePresence s).t16 = s.t16 := rfl
@[simp] theorem samplePresence_temp10 (s : State) : (samplePresence s).temp10 = s.temp10 := rfl
@[simp] theorem samplePresence_op (s : State) : (samplePresence s).op = s.op := rfl
@[simp] theorem samplePresence_arg (s : State) : (samplePresence s).arg = s.arg := rfl
@[simp] theorem samplePresence_mstep (s : State) : (samplePresence s).mstep = s.mstep := rfl
@[simp] theorem samplePresence_prim (s : State) : (samplePresence s).prim = s.prim := rfl
@[simp] theorem samplePresence_wb (s : State) : (samplePresence s).wb = s.wb := rfl
@[simp] theorem samplePresence_seg (s : State) : (samplePresence s).seg = s.seg := rfl
@[simp] theorem samplePresence_byteMode (s : State) : (samplePresence s).byteMode = s.byteMode := rfl
@[simp] theorem samplePresence_bitIdx (s : State) : (samplePresence s).bitIdx = s.bitIdx := rfl
@[simp] theorem samplePresence_timer (s : State) : (samplePresence s).timer = s.timer := rfl
@[simp] theorem samplePresence_owOut (s : State) : (samplePresence s).owOut = s.owOut := rfl
@[simp] theorem samplePresence_busy (s : State) : (samplePresence s).busy = s.busy := rfl
@[simp] theorem samplePresence_done (s : State) : (samplePresence s).done = s.done := rfl
@[simp] theorem samplePresence_presence (s : State) : (samplePresence s).presence = presenceOf (sampledLevel s) := rfl
@[simp] theorem samplePresence_valid (s : State) : (samplePresence s).valid = s.valid := rfl
@[simp] theorem samplePresence_errcode (s : State) : (samplePresence s).errcode = s.errcode := rfl
@[simp] theorem samplePresence_decodeMode (s : State) : (samplePresence s).decodeMode = s.decodeMode := rfl
@[simp] theorem samplePresence_errInd (s : State) : (samplePresence s).errInd = s.errInd := rfl
@[simp] theorem samplePresence_host (s : State) : (samplePresence s).host = s.host := rfl
@[simp] theorem samplePresence_env (s : State) : (samplePresence s).env = s.env := rfl
@[simp] theorem samplePresence_choice (s : State) : (samplePresence s).choice = s.choice + 1 := rfl
@[simp] theorem samplePresence_trace (s : State) : (samplePresence s).trace = s.trace ++ [.smp (sampledLevel s)] := rfl
@[simp] theorem samplePresence_cur (s : State) : (samplePresence s).cur = s.cur := rfl

/-! ## `sampleBit` -/
@[simp] theorem sampleBit_shreg (i : Nat) (s : State) : (sampleBit i s).shreg = s.shreg ||| (bitByte (bitOf (sampledLevel s)) <<< i) := rfl
@[simp] theorem sampleBit_data (i : Nat) (s : State) : (sampleBit i s).data = s.data := rfl
@[simp] theorem sampleBit_spLsb (i : Nat) (s : State) : (sampleBit i s).spLsb = s.spLsb := rfl
@[simp] theorem sampleBit_spMsb (i : Nat) (s : State) : (sampleBit i s).spMsb = s.spMsb := rfl
@[simp] theorem sampleBit_t16 (i : Nat) (s : State) : (sampleBit i s).t16 = s.t16 := rfl
@[simp] theorem sampleBit_temp10 (i : Nat) (s : State) : (sampleBit i s).temp10 = s.temp10 := rfl
@[simp] theorem sampleBit_op (i : Nat) (s : State) : (sampleBit i s).op = s.op := rfl
@[simp] theorem sampleBit_arg (i : Nat) (s : State) : (sampleBit i s).arg = s.arg := rfl
@[simp] theorem sampleBit_mstep (i : Nat) (s : State) : (sampleBit i s).mstep = s.mstep := rfl
@[simp] theorem sampleBit_prim (i : Nat) (s : State) : (sampleBit i s).prim = s.prim := rfl
@[simp] theorem sampleBit_wb (i : Nat) (s : State) : (sampleBit i s).wb = s.wb := rfl
@[simp] theorem sampleBit_seg (i : Nat) (s : State) : (sampleBit i s).seg = s.seg := rfl
@[simp] theorem sampleBit_byteMode (i : Nat) (s : State) : (sampleBit i s).byteMode = s.byteMode := rfl
@[simp] theorem sampleBit_bitIdx (i : Nat) (s : State) : (sampleBit i s).bitIdx = s.bitIdx := rfl
@[simp] theorem sampleBit_timer (i : Nat) (s : State) : (sampleBit i s).timer = s.timer := rfl
@[simp] theorem sampleBit_owOut (i : Nat) (s : State) : (sampleBit i s).owOut = s.owOut := rfl
@[simp] theorem sampleBit_busy (i : Nat) (s : State) : (sampleBit i s).busy = s.busy := rfl
@[simp] theorem sampleBit_done (i : Nat) (s : State) : (sampleBit i s).done = s.done := rfl
@[simp] theorem sampleBit_presence (i : Nat) (s : State) : (sampleBit i s).presence = s.presence := rfl
@[simp] theorem sampleBit_valid (i : Nat) (s : State) : (sampleBit i s).valid = s.valid := rfl
@[simp] theorem sampleBit_errcode (i : Nat) (s : State) : (sampleBit i s).errcode = s.errcode := rfl
@[simp] theorem sampleBit_decodeMode (i : Nat) (s : State) : (sampleBit i s).decodeMode = s.decodeMode := rfl
@[simp] theorem sampleBit_errInd (i : Nat) (s : State) : (sampleBit i s).errInd = s.errInd := rfl
@[simp] theorem sampleBit_host (i : Nat) (s : State) : (sampleBit i s).host = s.host := rfl
@[simp] theorem sampleBit_env (i : Nat) (s : State) : (sampleBit i s).env = s.env := rfl
@[simp] theorem sampleBit_choice (i : Nat) (s : State) : (sampleBit i s).choice = s.choice + 1 := rfl
@[simp] theorem sampleBit_trace (i : Nat) (s : State) : (sampleBit i s).trace = s.trace ++ [.smp (sampledLevel s)] := rfl
@[simp] theorem sampleBit_cur (i : Nat) (s : State) : (sampleBit i s).cur = s.cur := rfl

/-! ## `notifyError` -/
@[simp] theorem notifyError_shreg (s : State) : (notifyError s).shreg = s.shreg := rfl
@[simp] theorem notifyError_data (s : State) : (notifyError s).data = s.data := rfl
@[simp] theorem notifyError_spLsb (s : State) : (notifyError s).spLsb = s.spLsb := rfl
@[simp] theorem notifyError_spMsb (s : State) : (notifyError s).spMsb = s.spMsb := rfl
@[simp] theorem notifyError_t16 (s : State) : (notifyError s).t16 = s.t16 := rfl
@[simp] theorem notifyError_temp10 (s : State) : (notifyError s).temp10 = s.temp10 := rfl
@[simp] theorem notifyError_op (s : State) : (notifyError s).op = s.op := rfl
@[simp] theorem notifyError_arg (s : State) : (notifyError s).arg = s.arg := rfl
@[simp] theorem notifyError_mstep (s : State) : (notifyError s).mstep = s.mstep := rfl
@[simp] theorem notifyError_prim (s : State) : (notifyError s).prim = s.prim := rfl
@[simp] theorem notifyError_wb (s : State) : (notifyError s).wb = s.wb := rfl
@[simp] theorem notifyError_seg (s : State) : (notifyError s).seg = s.seg := rfl
@[simp] theorem notifyError_byteMode (s : State) : (notifyError s).byteMode = s.byteMode := rfl
@[simp] theorem notifyError_bitIdx (s : State) : (notifyError s).bitIdx = s.bitIdx := rfl
@[simp] theorem notifyError_timer (s : State) : (notifyError s).timer = s.timer := rfl
@[simp] theorem notifyError_owOut (s : State) : (notifyError s).owOut = s.owOut := rfl
@[simp] theorem notifyError_busy (s : State) : (notifyError s).busy = s.busy := rfl
@[simp] theorem notifyError_done (s : State) : (notifyError s).done = s.done := rfl
@[simp] theorem notifyError_presence (s : State) : (notifyError s).presence = s.presence := rfl
@[simp] theorem notifyError_valid (s : State) : (notifyError s).valid = s.valid := rfl
@[simp] theorem notifyError_errcode (s : State) : (notifyError s).errcode = s.errcode := rfl
@[simp] theorem notifyError_decodeMode (s : State) : (notifyError s).decodeMode = s.decodeMode := rfl
@[simp] theorem notifyError_errInd (s : State) : (notifyError s).errInd = true := rfl
@[simp] theorem notifyError_host (s : State) : (notifyError s).host = s.host := rfl
@[simp] theorem notifyError_env (s : State) : (notifyError s).env = s.env := rfl
@[simp] theorem notifyError_choice (s : State) : (notifyError s).choice = s.choice := rfl
@[simp] theorem notifyError_trace (s : State) : (notifyError s).trace = s.trace ++ [.ntf] := rfl
@[simp] theorem notifyError_cur (s : State) : (notifyError s).cur = s.cur := rfl

/-! ## `beginCmd` -/
@[simp] theorem beginCmd_shreg (o : OpCode) (a : Byte) (s : State) : (beginCmd o a s).shreg = s.shreg := rfl
@[simp] theorem beginCmd_data (o : OpCode) (a : Byte) (s : State) : (beginCmd o a s).data = s.data := rfl
@[simp] theorem beginCmd_spLsb (o : OpCode) (a : Byte) (s : State) : (beginCmd o a s).spLsb = s.spLsb := rfl
@[simp] theorem beginCmd_spMsb (o : OpCode) (a : Byte) (s : State) : (beginCmd o a s).spMsb = s.spMsb := rfl
@[simp] theorem beginCmd_t16 (o : OpCode) (a : Byte) (s : State) : (beginCmd o a s).t16 = s.t16 := rfl
@[simp] theorem beginCmd_temp10 (o : OpCode) (a : Byte) (s : State) : (beginCmd o a s).temp10 = s.temp10 := rfl
@[simp] theorem beginCmd_op (o : OpCode) (a : Byte) (s : State) : (beginCmd o a s).op = o := rfl
@[simp] theorem beginCmd_arg (o : OpCode) (a : Byte) (s : State) : (beginCmd o a s).arg = a := rfl
@[simp] theorem beginCmd_mstep (o : OpCode) (a : Byte) (s : State) : (beginCmd o a s).mstep = .idle := rfl
@[simp] theorem beginCmd_prim (o : OpCode) (a : Byte) (s : State) : (beginCmd o a s).prim = s.prim := rfl
@[simp] theorem beginCmd_wb (o : OpCode) (a : Byte) (s : State) : (beginCmd o a s).wb = s.wb := rfl
@[simp] theorem beginCmd_seg (o : OpCode) (a : Byte) (s : State) : (beginCmd o a s).seg = s.seg := rfl
@[simp] theorem beginCmd_byteMode (o : OpCode) (a : Byte) (s : State) : (beginCmd o a s).byteMode = .none := rfl
@[simp] theorem beginCmd_bitIdx (o : OpCode) (a : Byte) (s : State) : (beginCmd o a s).bitIdx = 0 := rfl
@[simp] theorem beginCmd_timer (o : OpCode) (a : Byte) (s : State) : (beginCmd o a s).timer = s.timer := rfl
@[simp] theorem beginCmd_owOut (o : OpCode) (a : Byte) (s : State) : (beginCmd o a s).owOut = s.owOut := rfl
@[simp] theorem beginCmd_busy (o : OpCode) (a : Byte) (s : State) : (beginCmd o a s).busy = true := rfl
@[simp] theorem beginCmd_done (o : OpCode) (a : Byte) (s : State) : (beginCmd o a s).done = s.done := rfl
@[simp] theorem beginCmd_presence (o : OpCode) (a : Byte) (s : State) : (beginCmd o a s).presence = s.presence := rfl
@[simp] theorem beginCmd_valid (o : OpCode) (a : Byte) (s : State) : (beginCmd o a s).valid = s.valid := rfl
@[simp] theorem beginCmd_errcode (o : OpCode) (a : Byte) (s : State) : (beginCmd o a s).errcode = .none := rfl
@[simp] theorem beginCmd_decodeMode (o : OpCode) (a : Byte) (s : State) : (beginCmd o a s).decodeMode = s.decodeMode := rfl
@[simp] theorem beginCmd_errInd (o : OpCode) (a : Byte) (s : State) : (beginCmd o a s).errInd = s.errInd := rfl
@[simp] theorem beginCmd_host (o : OpCode) (a : Byte) (s : State) : (beginCmd o a s).host = s.host := rfl
@[simp] theorem beginCmd_env (o : OpCode) (a : Byte) (s : State) : (beginCmd o a s).env = s.env := rfl
@[simp] theorem beginCmd_choice (o : OpCode) (a : Byte) (s : State) : (beginCmd o a s).choice = s.choice := rfl
@[simp] theorem beginCmd_trace (o : OpCode) (a : Byte) (s : State) : (beginCmd o a s).trace = s.trace := rfl
@[simp] theorem beginCmd_cur (o : OpCode) (a : Byte) (s : State) : (beginCmd o a s).cur = s.cur := rfl

/-! ## `clearPosition` -/
@[simp] theorem clearPosition_shreg (s : State) : (clearPosition s).shreg = s.shreg := rfl
@[simp] theorem clearPosition_data (s : State) : (clearPosition s).data = s.data := rfl
@[simp] theorem clearPosition_spLsb (s : State) : (clearPosition s).spLsb = s.spLsb := rfl
@[simp] theorem clearPosition_spMsb (s : State) : (clearPosition s).spMsb = s.spMsb := rfl
@[simp] theorem clearPosition_t16 (s : State) : (clearPosition s).t16 = s.t16 := rfl
@[simp] theorem clearPosition_temp10 (s : State) : (clearPosition s).temp10 = s.temp10 := rfl
@[simp] theorem clearPosition_op (s : State) : (clearPosition s).op = s.op := rfl
@[simp] theorem clearPosition_arg (s : State) : (clearPosition s).arg = s.arg := rfl
@[simp] theorem clearPosition_mstep (s : State) : (clearPosition s).mstep = .idle := rfl
@[simp] theorem clearPosition_prim (s : State) : (clearPosition s).prim = .none := rfl
@[simp] theorem clearPosition_wb (s : State) : (clearPosition s).wb = false := rfl
@[simp] theorem clearPosition_seg (s : State) : (clearPosition s).seg = 0 := rfl
@[simp] theorem clearPosition_byteMode (s : State) : (clearPosition s).byteMode = .none := rfl
@[simp] theorem clearPosition_bitIdx (s : State) : (clearPosition s).bitIdx = 0 := rfl
@[simp] theorem clearPosition_timer (s : State) : (clearPosition s).timer = 0 := rfl
@[simp] theorem clearPosition_owOut (s : State) : (clearPosition s).owOut = s.owOut := rfl
@[simp] theorem clearPosition_busy (s : State) : (clearPosition s).busy = s.busy := rfl
@[simp] theorem clearPosition_done (s : State) : (clearPosition s).done = s.done := rfl
@[simp] theorem clearPosition_presence (s : State) : (clearPosition s).presence = s.presence := rfl
@[simp] theorem clearPosition_valid (s : State) : (clearPosition s).valid = s.valid := rfl
@[simp] theorem clearPosition_errcode (s : State) : (clearPosition s).errcode = s.errcode := rfl
@[simp] theorem clearPosition_decodeMode (s : State) : (clearPosition s).decodeMode = s.decodeMode := rfl
@[simp] theorem clearPosition_errInd (s : State) : (clearPosition s).errInd = s.errInd := rfl
@[simp] theorem clearPosition_host (s : State) : (clearPosition s).host = s.host := rfl
@[simp] theorem clearPosition_env (s : State) : (clearPosition s).env = s.env := rfl
@[simp] theorem clearPosition_choice (s : State) : (clearPosition s).choice = s.choice := rfl
@[simp] theorem clearPosition_trace (s : State) : (clearPosition s).trace = s.trace := rfl
@[simp] theorem clearPosition_cur (s : State) : (clearPosition s).cur = s.cur := rfl

/-! ## `finish` -/
@[simp] theorem finish_shreg (s : State) : (finish s).shreg = s.shreg := rfl
@[simp] theorem finish_data (s : State) : (finish s).data = finishData s := rfl
@[simp] theorem finish_spLsb (s : State) : (finish s).spLsb = s.spLsb := rfl
@[simp] theorem finish_spMsb (s : State) : (finish s).spMsb = s.spMsb := rfl
@[simp] theorem finish_t16 (s : State) : (finish s).t16 = s.t16 := rfl
@[simp] theorem finish_temp10 (s : State) : (finish s).temp10 = s.temp10 := rfl
@[simp] theorem finish_op (s : State) : (finish s).op = s.op := rfl
@[simp] theorem finish_arg (s : State) : (finish s).arg = s.arg := rfl
@[simp] theorem finish_mstep (s : State) : (finish s).mstep = .idle := rfl
@[simp] theorem finish_prim (s : State) : (finish s).prim = .none := rfl
@[simp] theorem finish_wb (s : State) : (finish s).wb = false := rfl
@[simp] theorem finish_seg (s : State) : (finish s).seg = 0 := rfl
@[simp] theorem finish_byteMode (s : State) : (finish s).byteMode = .none := rfl
@[simp] theorem finish_bitIdx (s : State) : (finish s).bitIdx = 0 := rfl
@[simp] theorem finish_timer (s : State) : (finish s).timer = 0 := rfl
@[simp] theorem finish_owOut (s : State) : (finish s).owOut = s.owOut := rfl
@[simp] theorem finish_busy (s : State) : (finish s).busy = false := rfl
@[simp] theorem finish_done (s : State) : (finish s).done = true := rfl
@[simp] theorem finish_presence (s : State) : (finish s).presence = s.presence := rfl
@[simp] theorem finish_valid (s : State) : (finish s).valid = s.valid := rfl
@[simp] theorem finish_errcode (s : State) : (finish s).errcode = s.errcode := rfl
@[simp] theorem finish_decodeMode (s : State) : (finish s).decodeMode = s.decodeMode := rfl
@[simp] theorem finish_errInd (s : State) : (finish s).errInd = s.errInd := rfl
@[simp] theorem finish_host (s : State) : (finish s).host = s.host := rfl
@[simp] theorem finish_env (s : State) : (finish s).env = s.env := rfl
@[simp] theorem finish_choice (s : State) : (finish s).choice = s.choice := rfl
@[simp] theorem finish_trace (s : State) : (finish s).trace = s.trace := rfl
@[simp] theorem finish_cur (s : State) : (finish s).cur = s.cur := rfl

/-! ## `passTick` -/
@[simp] theorem passTick_shreg (s : State) : (passTick s).shreg = s.shreg := rfl
@[simp] theorem passTick_data (s : State) : (passTick s).data = s.data := rfl
@[simp] theorem passTick_spLsb (s : State) : (passTick s).spLsb = s.spLsb := rfl
@[simp] theorem passTick_spMsb (s : State) : (passTick s).spMsb = s.spMsb := rfl
@[simp] theorem passTick_t16 (s : State) : (passTick s).t16 = s.t16 := rfl
@[simp] theorem passTick_temp10 (s : State) : (passTick s).temp10 = s.temp10 := rfl
@[simp] theorem passTick_op (s : State) : (passTick s).op = s.op := rfl
@[simp] theorem passTick_arg (s : State) : (passTick s).arg = s.arg := rfl
@[simp] theorem passTick_mstep (s : State) : (passTick s).mstep = s.mstep := rfl
@[simp] theorem passTick_prim (s : State) : (passTick s).prim = s.prim := rfl
@[simp] theorem passTick_wb (s : State) : (passTick s).wb = s.wb := rfl
@[simp] theorem passTick_seg (s : State) : (passTick s).seg = s.seg := rfl
@[simp] theorem passTick_byteMode (s : State) : (passTick s).byteMode = s.byteMode := rfl
@[simp] theorem passTick_bitIdx (s : State) : (passTick s).bitIdx = s.bitIdx := rfl
@[simp] theorem passTick_timer (s : State) : (passTick s).timer = s.timer := rfl
@[simp] theorem passTick_owOut (s : State) : (passTick s).owOut = s.owOut := rfl
@[simp] theorem passTick_busy (s : State) : (passTick s).busy = s.busy := rfl
@[simp] theorem passTick_done (s : State) : (passTick s).done = s.done := rfl
@[simp] theorem passTick_presence (s : State) : (passTick s).presence = s.presence := rfl
@[simp] theorem passTick_valid (s : State) : (passTick s).valid = s.valid := rfl
@[simp] theorem passTick_errcode (s : State) : (passTick s).errcode = s.errcode := rfl
@[simp] theorem passTick_decodeMode (s : State) : (passTick s).decodeMode = s.decodeMode := rfl
@[simp] theorem passTick_errInd (s : State) : (passTick s).errInd = false := rfl
@[simp] theorem passTick_host (s : State) : (passTick s).host = s.host := rfl
@[simp] theorem passTick_env (s : State) : (passTick s).env = s.env := rfl
@[simp] theorem passTick_choice (s : State) : (passTick s).choice = s.choice := rfl
@[simp] theorem passTick_trace (s : State) : (passTick s).trace = s.trace := rfl
@[simp] theorem passTick_cur (s : State) : (passTick s).cur = s.cur + 1 := rfl

/-! ## `clearResults` -/
@[simp] theorem clearResults_shreg (s : State) : (clearResults s).shreg = s.shreg := rfl
@[simp] theorem clearResults_data (s : State) : (clearResults s).data = s.data := rfl
@[simp] theorem clearResults_spLsb (s : State) : (clearResults s).spLsb = 0 := rfl
@[simp] theorem clearResults_spMsb (s : State) : (clearResults s).spMsb = 0 := rfl
@[simp] theorem clearResults_t16 (s : State) : (clearResults s).t16 = 0 := rfl
@[simp] theorem clearResults_temp10 (s : State) : (clearResults s).temp10 = 0 := rfl
@[simp] theorem clearResults_op (s : State) : (clearResults s).op = s.op := rfl
@[simp] theorem clearResults_arg (s : State) : (clearResults s).arg = s.arg := rfl
@[simp] theorem clearResults_mstep (s : State) : (clearResults s).mstep = s.mstep := rfl
@[simp] theorem clearResults_prim (s : State) : (clearResults s).prim = s.prim := rfl
@[simp] theorem clearResults_wb (s : State) : (clearResults s).wb = s.wb := rfl
@[simp] theorem clearResults_seg (s : State) : (clearResults s).seg = s.seg := rfl
@[simp] theorem clearResults_byteMode (s : State) : (clearResults s).byteMode = s.byteMode := rfl
@[simp] theorem clearResults_bitIdx (s : State) : (clearResults s).bitIdx = s.bitIdx := rfl
@[simp] theorem clearResults_timer (s : State) : (clearResults s).timer = s.timer := rfl
@[simp] theorem clearResults_owOut (s : State) : (clearResults s).owOut = s.owOut := rfl
@[simp] theorem clearResults_busy (s : State) : (clearResults s).busy = s.busy := rfl
@[simp] theorem clearResults_done (s : State) : (clearResults s).done = s.done := rfl
@[simp] theorem clearResults_presence (s : State) : (clearResults s).presence = s.presence := rfl
@[simp] theorem clearResults_valid (s : State) : (clearResults s).valid = false := rfl
@[simp] theorem clearResults_errcode (s : State) : (clearResults s).errcode = s.errcode := rfl
@[simp] theorem clearResults_decodeMode (s : State) : (clearResults s).decodeMode = s.decodeMode := rfl
@[simp] theorem clearResults_errInd (s : State) : (clearResults s).errInd = s.errInd := rfl
@[simp] theorem clearResults_host (s : State) : (clearResults s).host = s.host := rfl
@[simp] theorem clearResults_env (s : State) : (clearResults s).env = s.env := rfl
@[simp] theorem clearResults_choice (s : State) : (clearResults s).choice = s.choice := rfl
@[simp] theorem clearResults_trace (s : State) : (clearResults s).trace = s.trace := rfl
@[simp] theorem clearResults_cur (s : State) : (clearResults s).cur = s.cur := rfl

/-! ## `decodeResult` -/
@[simp] theorem decodeResult_shreg (s : State) : (decodeResult s).shreg = s.shreg := rfl
@[simp] theorem decodeResult_data (s : State) : (decodeResult s).data = s.data := rfl
@[simp] theorem decodeResult_spLsb (s : State) : (decodeResult s).spLsb = s.spLsb := rfl
@[simp] theorem decodeResult_spMsb (s : State) : (decodeResult s).spMsb = s.spMsb := rfl
@[simp] theorem decodeResult_op (s : State) : (decodeResult s).op = s.op := rfl
@[simp] theorem decodeResult_arg (s : State) : (decodeResult s).arg = s.arg := rfl
@[simp] theorem decodeResult_mstep (s : State) : (decodeResult s).mstep = s.mstep := rfl
@[simp] theorem decodeResult_prim (s : State) : (decodeResult s).prim = s.prim := rfl
@[simp] theorem decodeResult_wb (s : State) : (decodeResult s).wb = s.wb := rfl
@[simp] theorem decodeResult_seg (s : State) : (decodeResult s).seg = s.seg := rfl
@[simp] theorem decodeResult_byteMode (s : State) : (decodeResult s).byteMode = s.byteMode := rfl
@[simp] theorem decodeResult_bitIdx (s : State) : (decodeResult s).bitIdx = s.bitIdx := rfl
@[simp] theorem decodeResult_timer (s : State) : (decodeResult s).timer = s.timer := rfl
@[simp] theorem decodeResult_owOut (s : State) : (decodeResult s).owOut = s.owOut := rfl
@[simp] theorem decodeResult_busy (s : State) : (decodeResult s).busy = s.busy := rfl
@[simp] theorem decodeResult_done (s : State) : (decodeResult s).done = s.done := rfl
@[simp] theorem decodeResult_presence (s : State) : (decodeResult s).presence = s.presence := rfl
@[simp] theorem decodeResult_valid (s : State) : (decodeResult s).valid = true := rfl
@[simp] theorem decodeResult_errcode (s : State) : (decodeResult s).errcode = s.errcode := rfl
@[simp] theorem decodeResult_decodeMode (s : State) : (decodeResult s).decodeMode = s.decodeMode := rfl
@[simp] theorem decodeResult_errInd (s : State) : (decodeResult s).errInd = s.errInd := rfl
@[simp] theorem decodeResult_host (s : State) : (decodeResult s).host = s.host := rfl
@[simp] theorem decodeResult_env (s : State) : (decodeResult s).env = s.env := rfl
@[simp] theorem decodeResult_choice (s : State) : (decodeResult s).choice = s.choice := rfl
@[simp] theorem decodeResult_trace (s : State) : (decodeResult s).trace = s.trace := rfl
@[simp] theorem decodeResult_cur (s : State) : (decodeResult s).cur = s.cur := rfl

/-! ## `startPrim` -/

@[simp] theorem startPrim_shreg (p : Prim) (b : Bool) (s : State) :
    (startPrim p b s).shreg = s.shreg := by
  unfold startPrim; split <;> [rfl; (split <;> rfl)]
@[simp] theorem startPrim_data (p : Prim) (b : Bool) (s : State) :
    (startPrim p b s).data = s.data := by
  unfold startPrim; split <;> [rfl; (split <;> rfl)]
@[simp] theorem startPrim_spLsb (p : Prim) (b : Bool) (s : State) :
    (startPrim p b s).spLsb = s.spLsb := by
  unfold startPrim; split <;> [rfl; (split <;> rfl)]
@[simp] theorem startPrim_spMsb (p : Prim) (b : Bool) (s : State) :
    (startPrim p b s).spMsb = s.spMsb := by
  unfold startPrim; split <;> [rfl; (split <;> rfl)]
@[simp] theorem startPrim_t16 (p : Prim) (b : Bool) (s : State) :
    (startPrim p b s).t16 = s.t16 := by
  unfold startPrim; split <;> [rfl; (split <;> rfl)]
@[simp] theorem startPrim_temp10 (p : Prim) (b : Bool) (s : State) :
    (startPrim p b s).temp10 = s.temp10 := by
  unfold startPrim; split <;> [rfl; (split <;> rfl)]
@[simp] theorem startPrim_op (p : Prim) (b : Bool) (s : State) :
    (startPrim p b s).op = s.op := by
  unfold startPrim; split <;> [rfl; (split <;> rfl)]
@[simp] theorem startPrim_arg (p : Prim) (b : Bool) (s : State) :
    (startPrim p b s).arg = s.arg := by
  unfold startPrim; split <;> [rfl; (split <;> rfl)]
@[simp] theorem startPrim_mstep (p : Prim) (b : Bool) (s : State) :
    (startPrim p b s).mstep = s.mstep := by
  unfold startPrim; split <;> [rfl; (split <;> rfl)]
@[simp] theorem startPrim_byteMode (p : Prim) (b : Bool) (s : State) :
    (startPrim p b s).byteMode = s.byteMode := by
  unfold startPrim; split <;> [rfl; (split <;> rfl)]
@[simp] theorem startPrim_bitIdx (p : Prim) (b : Bool) (s : State) :
    (startPrim p b s).bitIdx = s.bitIdx := by
  unfold startPrim; split <;> [rfl; (split <;> rfl)]
@[simp] theorem startPrim_busy (p : Prim) (b : Bool) (s : State) :
    (startPrim p b s).busy = s.busy := by
  unfold startPrim; split <;> [rfl; (split <;> rfl)]
@[simp] theorem startPrim_done (p : Prim) (b : Bool) (s : State) :
    (startPrim p b s).done = s.done := by
  unfold startPrim; split <;> [rfl; (split <;> rfl)]
@[simp] theorem startPrim_presence (p : Prim) (b : Bool) (s : State) :
    (startPrim p b s).presence = s.presence := by
  unfold startPrim; split <;> [rfl; (split <;> rfl)]
@[simp] theorem startPrim_valid (p : Prim) (b : Bool) (s : State) :
    (startPrim p b s).valid = s.valid := by
  unfold startPrim; split <;> [rfl; (split <;> rfl)]
@[simp] theorem startPrim_errcode (p : Prim) (b : Bool) (s : State) :
    (startPrim p b s).errcode = s.errcode := by
  unfold startPrim; split <;> [rfl; (split <;> rfl)]
@[simp] theorem startPrim_decodeMode (p : Prim) (b : Bool) (s : State) :
    (startPrim p b s).decodeMode = s.decodeMode := by
  unfold startPrim; split <;> [rfl; (split <;> rfl)]
@[simp] theorem startPrim_errInd (p : Prim) (b : Bool) (s : State) :
    (startPrim p b s).errInd = s.errInd := by
  unfold startPrim; split <;> [rfl; (split <;> rfl)]
@[simp] theorem startPrim_host (p : Prim) (b : Bool) (s : State) :
    (startPrim p b s).host = s.host := by
  unfold startPrim; split <;> [rfl; (split <;> rfl)]
@[simp] theorem startPrim_env (p : Prim) (b : Bool) (s : State) :
    (startPrim p b s).env = s.env := by
  unfold startPrim; split <;> [rfl; (split <;> rfl)]
@[simp] theorem startPrim_choice (p : Prim) (b : Bool) (s : State) :
    (startPrim p b s).choice = s.choice := by
  unfold startPrim; split <;> [rfl; (split <;> rfl)]
@[simp] theorem startPrim_cur (p : Prim) (b : Bool) (s : State) :
    (startPrim p b s).cur = s.cur := by
  unfold startPrim; split <;> [rfl; (split <;> rfl)]

/-! ## `startWByte` -/

@[simp] theorem startWByte_data (d : Byte) (s : State) :
    (startWByte d s).data = s.data := by
  unfold startWByte; rw [startPrim_data]
@[simp] theorem startWByte_spLsb (d : Byte) (s : State) :
    (startWByte d s).spLsb = s.spLsb := by
  unfold startWByte; rw [startPrim_spLsb]
@[simp] theorem startWByte_spMsb (d : Byte) (s : State) :
    (startWByte d s).spMsb = s.spMsb := by
  unfold startWByte; rw [startPrim_spMsb]
@[simp] theorem startWByte_t16 (d : Byte) (s : State) :
    (startWByte d s).t16 = s.t16 := by
  unfold startWByte; rw [startPrim_t16]
@[simp] theorem startWByte_temp10 (d : Byte) (s : State) :
    (startWByte d s).temp10 = s.temp10 := by
  unfold startWByte; rw [startPrim_temp10]
@[simp] theorem startWByte_op (d : Byte) (s : State) :
    (startWByte d s).op = s.op := by
  unfold startWByte; rw [startPrim_op]
@[simp] theorem startWByte_arg (d : Byte) (s : State) :
    (startWByte d s).arg = s.arg := by
  unfold startWByte; rw [startPrim_arg]
@[simp] theorem startWByte_mstep (d : Byte) (s : State) :
    (startWByte d s).mstep = s.mstep := by
  unfold startWByte; rw [startPrim_mstep]
@[simp] theorem startWByte_busy (d : Byte) (s : State) :
    (startWByte d s).busy = s.busy := by
  unfold startWByte; rw [startPrim_busy]
@[simp] theorem startWByte_done (d : Byte) (s : State) :
    (startWByte d s).done = s.done := by
  unfold startWByte; rw [startPrim_done]
@[simp] theorem startWByte_presence (d : Byte) (s : State) :
    (startWByte d s).presence = s.presence := by
  unfold startWByte; rw [startPrim_presence]
@[simp] theorem startWByte_valid (d : Byte) (s : State) :
    (startWByte d s).valid = s.valid := by
  unfold startWByte; rw [startPrim_valid]
@[simp] theorem startWByte_errcode (d : Byte) (s : State) :
    (startWByte d s).errcode = s.errcode := by
  unfold startWByte; rw [startPrim_errcode]
@[simp] theorem startWByte_decodeMode (d : Byte) (s : State) :
    (startWByte d s).decodeMode = s.decodeMode := by
  unfold startWByte; rw [startPrim_decodeMode]
@[simp] theorem startWByte_errInd (d : Byte) (s : State) :
    (startWByte d s).errInd = s.errInd := by
  unfold startWByte; rw [startPrim_errInd]
@[simp] theorem startWByte_host (d : Byte) (s : State) :
    (startWByte d s).host = s.host := by
  unfold startWByte; rw [startPrim_host]
@[simp] theorem startWByte_env (d : Byte) (s : State) :
    (startWByte d s).env = s.env := by
  unfold startWByte; rw [startPrim_env]
@[simp] theorem startWByte_choice (d : Byte) (s : State) :
    (startWByte d s).choice = s.choice := by
  unfold startWByte; rw [startPrim_choice]
@[simp] theorem startWByte_cur (d : Byte) (s : State) :
    (startWByte d s).cur = s.cur := by
  unfold startWByte; rw [startPrim_cur]

/-! ## `startRByte` -/

@[simp] theorem startRByte_data  (s : State) :
    (startRByte s).data = s.data := by
  unfold startRByte; rw [startPrim_data]
@[simp] theorem startRByte_spLsb  (s : State) :
    (startRByte s).spLsb = s.spLsb := by
  unfold startRByte; rw [startPrim_spLsb]
@[simp] theorem startRByte_spMsb  (s : State) :
    (startRByte s).spMsb = s.spMsb := by
  unfold startRByte; rw [startPrim_spMsb]
@[simp] theorem startRByte_t16  (s : State) :
    (startRByte s).t16 = s.t16 := by
  unfold startRByte; rw [startPrim_t16]
@[simp] theorem startRByte_temp10  (s : State) :
    (startRByte s).temp10 = s.temp10 := by
  unfold startRByte; rw [startPrim_temp10]
@[simp] theorem startRByte_op  (s : State) :
    (startRByte s).op = s.op := by
  unfold startRByte; rw [startPrim_op]
@[simp] theorem startRByte_arg  (s : State) :
    (startRByte s).arg = s.arg := by
  unfold startRByte; rw [startPrim_arg]
@[simp] theorem startRByte_mstep  (s : State) :
    (startRByte s).mstep = s.mstep := by
  unfold startRByte; rw [startPrim_mstep]
@[simp] theorem startRByte_busy  (s : State) :
    (startRByte s).busy = s.busy := by
  unfold startRByte; rw [startPrim_busy]
@[simp] theorem startRByte_done  (s : State) :
    (startRByte s).done = s.done := by
  unfold startRByte; rw [startPrim_done]
@[simp] theorem startRByte_presence  (s : State) :
    (startRByte s).presence = s.presence := by
  unfold startRByte; rw [startPrim_presence]
@[simp] theorem startRByte_valid  (s : State) :
    (startRByte s).valid = s.valid := by
  unfold startRByte; rw [startPrim_valid]
@[simp] theorem startRByte_errcode  (s : State) :
    (startRByte s).errcode = s.errcode := by
  unfold startRByte; rw [startPrim_errcode]
@[simp] theorem startRByte_decodeMode  (s : State) :
    (startRByte s).decodeMode = s.decodeMode := by
  unfold startRByte; rw [startPrim_decodeMode]
@[simp] theorem startRByte_errInd  (s : State) :
    (startRByte s).errInd = s.errInd := by
  unfold startRByte; rw [startPrim_errInd]
@[simp] theorem startRByte_host  (s : State) :
    (startRByte s).host = s.host := by
  unfold startRByte; rw [startPrim_host]
@[simp] theorem startRByte_env  (s : State) :
    (startRByte s).env = s.env := by
  unfold startRByte; rw [startPrim_env]
@[simp] theorem startRByte_choice  (s : State) :
    (startRByte s).choice = s.choice := by
  unfold startRByte; rw [startPrim_choice]
@[simp] theorem startRByte_cur  (s : State) :
    (startRByte s).cur = s.cur := by
  unfold startRByte; rw [startPrim_cur]

/-! ## `nextSegment` -/

@[simp] theorem nextSegment_shreg (r r2 : Segment) (s : State) :
    (nextSegment r r2 s).shreg = s.shreg := by
  unfold nextSegment; split <;> rfl
@[simp] theorem nextSegment_data (r r2 : Segment) (s : State) :
    (nextSegment r r2 s).data = s.data := by
  unfold nextSegment; split <;> rfl
@[simp] theorem nextSegment_spLsb (r r2 : Segment) (s : State) :
    (nextSegment r r2 s).spLsb = s.spLsb := by
  unfold nextSegment; split <;> rfl
@[simp] theorem nextSegment_spMsb (r r2 : Segment) (s : State) :
    (nextSegment r r2 s).spMsb = s.spMsb := by
  unfold nextSegment; split <;> rfl
@[simp] theorem nextSegment_t16 (r r2 : Segment) (s : State) :
    (nextSegment r r2 s).t16 = s.t16 := by
  unfold nextSegment; split <;> rfl
@[simp] theorem nextSegment_temp10 (r r2 : Segment) (s : State) :
    (nextSegment r r2 s).temp10 = s.temp10 := by
  unfold nextSegment; split <;> rfl
@[simp] theorem nextSegment_op (r r2 : Segment) (s : State) :
    (nextSegment r r2 s).op = s.op := by
  unfold nextSegment; split <;> rfl
@[simp] theorem nextSegment_arg (r r2 : Segment) (s : State) :
    (nextSegment r r2 s).arg = s.arg := by
  unfold nextSegment; split <;> rfl
@[simp] theorem nextSegment_mstep (r r2 : Segment) (s : State) :
    (nextSegment r r2 s).mstep = s.mstep := by
  unfold nextSegment; split <;> rfl
@[simp] theorem nextSegment_prim (r r2 : Segment) (s : State) :
    (nextSegment r r2 s).prim = s.prim := by
  unfold nextSegment; split <;> rfl
@[simp] theorem nextSegment_wb (r r2 : Segment) (s : State) :
    (nextSegment r r2 s).wb = s.wb := by
  unfold nextSegment; split <;> rfl
@[simp] theorem nextSegment_byteMode (r r2 : Segment) (s : State) :
    (nextSegment r r2 s).byteMode = s.byteMode := by
  unfold nextSegment; split <;> rfl
@[simp] theorem nextSegment_bitIdx (r r2 : Segment) (s : State) :
    (nextSegment r r2 s).bitIdx = s.bitIdx := by
  unfold nextSegment; split <;> rfl
@[simp] theorem nextSegment_busy (r r2 : Segment) (s : State) :
    (nextSegment r r2 s).busy = s.busy := by
  unfold nextSegment; split <;> rfl
@[simp] theorem nextSegment_done (r r2 : Segment) (s : State) :
    (nextSegment r r2 s).done = s.done := by
  unfold nextSegment; split <;> rfl
@[simp] theorem nextSegment_presence (r r2 : Segment) (s : State) :
    (nextSegment r r2 s).presence = s.presence := by
  unfold nextSegment; split <;> rfl
@[simp] theorem nextSegment_valid (r r2 : Segment) (s : State) :
    (nextSegment r r2 s).valid = s.valid := by
  unfold nextSegment; split <;> rfl
@[simp] theorem nextSegment_errcode (r r2 : Segment) (s : State) :
    (nextSegment r r2 s).errcode = s.errcode := by
  unfold nextSegment; split <;> rfl
@[simp] theorem nextSegment_decodeMode (r r2 : Segment) (s : State) :
    (nextSegment r r2 s).decodeMode = s.decodeMode := by
  unfold nextSegment; split <;> rfl
@[simp] theorem nextSegment_errInd (r r2 : Segment) (s : State) :
    (nextSegment r r2 s).errInd = s.errInd := by
  unfold nextSegment; split <;> rfl
@[simp] theorem nextSegment_host (r r2 : Segment) (s : State) :
    (nextSegment r r2 s).host = s.host := by
  unfold nextSegment; split <;> rfl
@[simp] theorem nextSegment_env (r r2 : Segment) (s : State) :
    (nextSegment r r2 s).env = s.env := by
  unfold nextSegment; split <;> rfl
@[simp] theorem nextSegment_choice (r r2 : Segment) (s : State) :
    (nextSegment r r2 s).choice = s.choice := by
  unfold nextSegment; split <;> rfl
@[simp] theorem nextSegment_cur (r r2 : Segment) (s : State) :
    (nextSegment r r2 s).cur = s.cur := by
  unfold nextSegment; split <;> rfl

/-! ## `sampleFor` -/

@[simp] theorem sampleFor_data (k : Smp) (s : State) :
    (sampleFor k s).data = s.data := by
  cases k <;> simp [sampleFor]
@[simp] theorem sampleFor_spLsb (k : Smp) (s : State) :
    (sampleFor k s).spLsb = s.spLsb := by
  cases k <;> simp [sampleFor]
@[simp] theorem sampleFor_spMsb (k : Smp) (s : State) :
    (sampleFor k s).spMsb = s.spMsb := by
  cases k <;> simp [sampleFor]
@[simp] theorem sampleFor_t16 (k : Smp) (s : State) :
    (sampleFor k s).t16 = s.t16 := by
  cases k <;> simp [sampleFor]
@[simp] theorem sampleFor_temp10 (k : Smp) (s : State) :
    (sampleFor k s).temp10 = s.temp10 := by
  cases k <;> simp [sampleFor]
@[simp] theorem sampleFor_op (k : Smp) (s : State) :
    (sampleFor k s).op = s.op := by
  cases k <;> simp [sampleFor]
@[simp] theorem sampleFor_arg (k : Smp) (s : State) :
    (sampleFor k s).arg = s.arg := by
  cases k <;> simp [sampleFor]
@[simp] theorem sampleFor_mstep (k : Smp) (s : State) :
    (sampleFor k s).mstep = s.mstep := by
  cases k <;> simp [sampleFor]
@[simp] theorem sampleFor_prim (k : Smp) (s : State) :
    (sampleFor k s).prim = s.prim := by
  cases k <;> simp [sampleFor]
@[simp] theorem sampleFor_wb (k : Smp) (s : State) :
    (sampleFor k s).wb = s.wb := by
  cases k <;> simp [sampleFor]
@[simp] theorem sampleFor_seg (k : Smp) (s : State) :
    (sampleFor k s).seg = s.seg := by
  cases k <;> simp [sampleFor]
@[simp] theorem sampleFor_byteMode (k : Smp) (s : State) :
    (sampleFor k s).byteMode = s.byteMode := by
  cases k <;> simp [sampleFor]
@[simp] theorem sampleFor_bitIdx (k : Smp) (s : State) :
    (sampleFor k s).bitIdx = s.bitIdx := by
  cases k <;> simp [sampleFor]
@[simp] theorem sampleFor_timer (k : Smp) (s : State) :
    (sampleFor k s).timer = s.timer := by
  cases k <;> simp [sampleFor]
@[simp] theorem sampleFor_owOut (k : Smp) (s : State) :
    (sampleFor k s).owOut = s.owOut := by
  cases k <;> simp [sampleFor]
@[simp] theorem sampleFor_busy (k : Smp) (s : State) :
    (sampleFor k s).busy = s.busy := by
  cases k <;> simp [sampleFor]
@[simp] theorem sampleFor_done (k : Smp) (s : State) :
    (sampleFor k s).done = s.done := by
  cases k <;> simp [sampleFor]
@[simp] theorem sampleFor_valid (k : Smp) (s : State) :
    (sampleFor k s).valid = s.valid := by
  cases k <;> simp [sampleFor]
@[simp] theorem sampleFor_errcode (k : Smp) (s : State) :
    (sampleFor k s).errcode = s.errcode := by
  cases k <;> simp [sampleFor]
@[simp] theorem sampleFor_decodeMode (k : Smp) (s : State) :
    (sampleFor k s).decodeMode = s.decodeMode := by
  cases k <;> simp [sampleFor]
@[simp] theorem sampleFor_errInd (k : Smp) (s : State) :
    (sampleFor k s).errInd = s.errInd := by
  cases k <;> simp [sampleFor]
@[simp] theorem sampleFor_host (k : Smp) (s : State) :
    (sampleFor k s).host = s.host := by
  cases k <;> simp [sampleFor]
@[simp] theorem sampleFor_env (k : Smp) (s : State) :
    (sampleFor k s).env = s.env := by
  cases k <;> simp [sampleFor]
@[simp] theorem sampleFor_cur (k : Smp) (s : State) :
    (sampleFor k s).cur = s.cur := by
  cases k <;> simp [sampleFor]

/-- The sentinel as a number (R176). -/
@[simp] theorem sentinel_toInt : sentinel.toInt = -9990 := by decide

end Sys2Proof.Machine
end

