-- ==== Sys2Proof/Laws/Run.lean ====
section
/-! SUPPORT. Runs of many ticks: the algebra of `run` and `BusyFor`, what a busy block does to the host's list, and the
tick, the segment, the slot and the byte each said once (spec/10_state.md R29 to R31). -/

namespace Sys2Proof.Machine

/-! ## `run` and `BusyFor` -/

theorem core_run_succ (M : Host.Core) {s t : M.State} (n : Nat) (h : M.step s = .next t) :
    M.run (n + 1) s = M.run n t := by
  rw [Host.Core.run, h]

theorem core_run_add (M : Host.Core) {s t : M.State} {a : Nat} (b : Nat) (h : M.run a s = .next t) :
    M.run (a + b) s = M.run b t := by
  induction a generalizing s with
  | zero =>
    cases h
    rw [Nat.zero_add]
  | succ a ih =>
    rw [Host.Core.run] at h
    split at h
    · rename_i m hm
      rw [Nat.add_right_comm, core_run_succ M (a + b) hm]
      exact ih h
    · cases h
    · cases h

theorem runSteps_zero (s : State) : runSteps 0 s = .next s := rfl

theorem runSteps_succ {s t : State} (n : Nat) (h : step s = .next t) : runSteps (n + 1) s = runSteps n t :=
  core_run_succ Sys2Proof.core n h

theorem runSteps_add {s t : State} {a : Nat} (b : Nat) (h : runSteps a s = .next t) :
    runSteps (a + b) s = runSteps b t :=
  core_run_add Sys2Proof.core b h

theorem runSteps_one (s : State) : runSteps 1 s = step s := by
  cases h : step s with
  | next t => rw [runSteps_succ 0 h, runSteps_zero]
  | fault r =>
    show Sys2Proof.core.run 1 s = _
    simp only [Host.Core.run, show Sys2Proof.core.step s = .fault r from h]
    rfl
  | refused r =>
    show Sys2Proof.core.run 1 s = _
    simp only [Host.Core.run, show Sys2Proof.core.step s = .refused r from h]
    rfl

theorem busyFor_zero (s : State) : BusyFor 0 s s := ⟨rfl, fun k hk => absurd hk (Nat.not_lt_zero k)⟩

theorem busyFor_one {s t : State} (hb : s.busy = true) (h : step s = .next t) : BusyFor 1 s t := by
  refine ⟨by rw [runSteps_succ 0 h, runSteps_zero], fun k hk => ?_⟩
  obtain rfl : k = 0 := by omega
  exact ⟨s, rfl, hb⟩

theorem busyFor_trans {s m u : State} {a b : Nat} (h1 : BusyFor a s m) (h2 : BusyFor b m u) :
    BusyFor (a + b) s u := by
  refine ⟨by rw [runSteps_add b h1.1, h2.1], fun k hk => ?_⟩
  by_cases hka : k < a
  · exact h1.2 k hka
  · obtain ⟨x, hx, hxb⟩ := h2.2 (k - a) (by omega)
    refine ⟨x, ?_, hxb⟩
    rw [show k = a + (k - a) by omega, runSteps_add (k - a) h1.1, hx]

/-! ## The host's list while the block is busy -/

@[simp] theorem hostAfterBusy_zero (h : List PortIn) : hostAfterBusy 0 h = h := rfl

@[simp] theorem hostAfterBusy_one (h : List PortIn) : hostAfterBusy 1 h = hostAfterBusyTick h := rfl

theorem hostAfterBusy_add (a b : Nat) (h : List PortIn) :
    hostAfterBusy (a + b) h = hostAfterBusy b (hostAfterBusy a h) := by
  induction a generalizing h with
  | zero => rw [Nat.zero_add, hostAfterBusy_zero]
  | succ a ih => rw [Nat.add_right_comm]; exact ih _

theorem noRstFor_add (a b : Nat) (h : List PortIn) :
    noRstFor (a + b) h = (noRstFor a h && noRstFor b (hostAfterBusy a h)) := by
  induction a generalizing h with
  | zero => simp [noRstFor]
  | succ a ih =>
    rw [Nat.add_right_comm]
    simp only [noRstFor, hostAfterBusy, ih, Bool.and_assoc]

/-- No `rst` in `a + b` busy ticks: none in the first `a`, and none in the `b` after them. -/
theorem noRstFor_split {a b : Nat} {h : List PortIn} (hr : noRstFor (a + b) h = true) :
    noRstFor a h = true ∧ noRstFor b (hostAfterBusy a h) = true := by
  rw [noRstFor_add, Bool.and_eq_true] at hr
  exact hr

@[simp] theorem noRstFor_nil (n : Nat) : noRstFor n [] = true := by
  induction n with
  | zero => rfl
  | succ n ih => simpa [noRstFor, hostAfterBusyTick, PortIn.quiet] using ih

theorem hostMoves_of_busy {s : State} (hb : s.busy = true) :
    hostMoves s = { s with host := hostAfterBusyTick s.host } := by
  cases s with | mk =>
  rename_i host _ _ _ _
  dsimp only at hb
  subst hb
  cases host with
  | nil => rfl
  | cons p ps =>
    unfold hostMoves hostHolds
    simp only [portNow, List.headD_cons, Bool.and_true, hostAfterBusyTick, List.tail_cons]
    split <;> rfl

theorem hostMoves_of_idle {s : State} (hb : s.busy = false) :
    hostMoves s = { s with host := s.host.tail } := by
  unfold hostMoves hostHolds
  simp [hb]

/-! ## One step, by what the block is doing -/

/-- A step of a busy block without `rst` is its tick, whatever word the host presents (R28, R30). -/
theorem step_of_busy {s : State} (hb : s.busy = true) (hr : noRstFor 1 s.host = true) :
    step s = tick { s with host := hostAfterBusyTick s.host } := by
  have hr' : (portNow s).rst = false := by
    simpa [noRstFor, portNow] using hr
  unfold step
  rw [if_neg (by simp [hr']), if_pos hb, hostMoves_of_busy hb]

/-- A tick inside a segment only counts (R30). -/
theorem tick_inside {s : State} (h : 1 < s.timer.toNat) :
    tick s = .next { passTick s with timer := s.timer - 1 } := by
  unfold tick
  rw [if_pos h]

/-- The tick that ends a segment (R30). -/
theorem tick_at_end {s : State} {r : Segment} (h : s.timer.toNat ≤ 1) (hr : segTable s.prim s.wb s.seg = some r) :
    tick s = segmentEnd r (passTick s) := by
  unfold tick
  rw [if_neg (by omega), hr]

/-- The step that ends a segment of a busy block. -/
theorem step_at_end {s : State} {r : Segment} (hb : s.busy = true) (hr : noRstFor 1 s.host = true)
    (ht : s.timer.toNat ≤ 1) (hs : segTable s.prim s.wb s.seg = some r) :
    step s = segmentEnd r
      { s with cur := s.cur + 1, errInd := false, host := hostAfterBusyTick s.host } :=
  (step_of_busy hb hr).trans (tick_at_end (s := { s with host := hostAfterBusyTick s.host }) ht hs)

/-- Counting down inside a segment (R30). -/
theorem busyFor_countdown (n : Nat) {s : State} (hb : s.busy = true) (hn : n + 1 < s.timer.toNat)
    (hr : noRstFor (n + 1) s.host = true) :
    BusyFor (n + 1) s
      { s with
        timer := s.timer - BitVec.ofNat 20 (n + 1)
        cur := s.cur + (n + 1)
        errInd := false
        host := hostAfterBusy (n + 1) s.host } := by
  have hlt := s.timer.isLt
  induction n generalizing s with
  | zero =>
    refine busyFor_one hb ?_
    rw [step_of_busy hb hr, tick_inside (by exact hn)]
    rfl
  | succ n ih =>
    rw [Nat.add_comm (n + 1) 1] at hr ⊢
    obtain ⟨h1, h2⟩ := noRstFor_split hr
    have hstep : step s = .next { s with
        timer := s.timer - 1, cur := s.cur + 1, errInd := false, host := hostAfterBusyTick s.host } := by
      rw [step_of_busy hb h1, tick_inside (by show 1 < s.timer.toNat; omega)]
      rfl
    refine busyFor_trans (busyFor_one hb hstep) ?_
    have ht : (s.timer - 1).toNat = s.timer.toNat - 1 := by
      rw [BitVec.toNat_sub_of_le (by rw [BitVec.le_def]; show 1 ≤ _; omega)]
      rfl
    have hcount := ih (s := { s with
        timer := s.timer - 1, cur := s.cur + 1, errInd := false, host := hostAfterBusyTick s.host })
      hb (by show _ < (s.timer - 1).toNat; omega) h2 (BitVec.isLt _)
    have htimer : s.timer - 1 - BitVec.ofNat 20 (n + 1) = s.timer - BitVec.ofNat 20 (1 + (n + 1)) := by
      apply BitVec.eq_of_toNat_eq
      rw [BitVec.toNat_sub, ht]
      simp only [BitVec.toNat_sub, BitVec.toNat_ofNat, Nat.reducePow] at hlt ⊢
      omega
    rw [show s.cur + (1 + (n + 1)) = s.cur + 1 + (n + 1) by omega, ← htimer, hostAfterBusy_add]
    exact hcount

/-- A whole segment of `d ≥ 1` ticks (R30): when `TIMER` has just been loaded with `d`, the `d`-th tick ends it. -/
theorem busyFor_segment {s u : State} {r : Segment} (d : Nat) (hb : s.busy = true) (hd : 0 < d)
    (ht : s.timer.toNat = d) (hs : segTable s.prim s.wb s.seg = some r) (hr : noRstFor d s.host = true)
    (hu : segmentEnd r
      { s with timer := 1, cur := s.cur + d, errInd := false, host := hostAfterBusy d s.host } = .next u) :
    BusyFor d s u := by
  have hlt := s.timer.isLt
  obtain ⟨n, rfl⟩ : ∃ n, d = n + 1 := ⟨d - 1, by omega⟩
  have htimer : s.timer - BitVec.ofNat 20 n = 1 := by
    apply BitVec.eq_of_toNat_eq
    have h1 : BitVec.toNat (1 : BitVec 20) = 1 := rfl
    rw [h1]
    simp only [BitVec.toNat_sub, BitVec.toNat_ofNat, Nat.reducePow] at hlt ⊢
    omega
  obtain ⟨h1, h2⟩ := noRstFor_split (a := n) (b := 1) hr
  rcases Nat.eq_zero_or_pos n with rfl | hn
  · have h0 : s.timer = 1 := BitVec.eq_of_toNat_eq (by rw [ht]; rfl)
    refine busyFor_one hb ((step_at_end hb hr (by omega) hs).trans ?_)
    rw [← hu, ← h0]
    rfl
  · obtain ⟨k, rfl⟩ : ∃ k, n = k + 1 := ⟨n - 1, by omega⟩
    refine busyFor_trans (busyFor_countdown k hb (by omega) h1) (busyFor_one hb ?_)
    refine (step_at_end (s := { s with
      timer := s.timer - BitVec.ofNat 20 (k + 1), cur := s.cur + (k + 1), errInd := false
      host := hostAfterBusy (k + 1) s.host }) hb h2
      (by show (s.timer - BitVec.ofNat 20 (k + 1)).toNat ≤ 1; rw [htimer]; decide) hs).trans ?_
    rw [← hu, ← htimer, hostAfterBusy_add (k + 1) 1]
    rfl

/-- The same, with the host's list after it under a name of its own. -/
theorem busyFor_segment_to {s u : State} {r : Segment} (d : Nat) {h : List PortIn} (hb : s.busy = true) (hd : 0 < d)
    (ht : s.timer.toNat = d) (hs : segTable s.prim s.wb s.seg = some r) (hr : noRstFor d s.host = true)
    (hh : hostAfterBusy d s.host = h)
    (hu : segmentEnd r { s with timer := 1, cur := s.cur + d, errInd := false, host := h } = .next u) :
    BusyFor d s u :=
  busyFor_segment d hb hd ht hs hr (by rw [hh]; exact hu)

/-- The last segment of a slot: it is closed in the trace, it samples, and `PrimDone` follows (R30, R31). -/
theorem segmentEnd_last {s : State} {r : Segment} (hl : r.last = true) (hc : s.cur ≠ 0) :
    segmentEnd r s
      = .next (primDone (sampleFor r.smp { s with trace := s.trace ++ [.dly s.cur], cur := 0 })) := by
  unfold segmentEnd flush
  rw [if_pos hl, if_neg hc]

/-- A segment that is not the last: it is closed in the trace, it samples, and the next one starts (R30). -/
theorem segmentEnd_more {s : State} {r r2 : Segment} (hl : r.last = false) (hc : s.cur ≠ 0)
    (h2 : segTable s.prim s.wb (s.seg + 1) = some r2) :
    segmentEnd r s
      = .next (nextSegment r r2 (sampleFor r.smp { s with trace := s.trace ++ [.dly s.cur], cur := 0 })) := by
  unfold segmentEnd flush
  rw [if_neg (by simp [hl]), h2, if_neg hc]

/-! ## A whole slot -/

/-- Where the sequencer stands when the last segment of a slot has been timed. -/
def slotEnd (p : Prim) (b : Bool) (sg : Fin 3) (h : List PortIn) (s : State) : State :=
  { s with prim := p, wb := b, seg := sg, timer := 1, errInd := false, host := h }

/-- A reset slot, from its `Drive(L)` to `PrimDone` (R121, R30): the pseudocode of R121 in 1070 ticks. -/
theorem busyFor_resetSlot {s : State} (hb : s.busy = true) (hc : s.cur = 0) (hr : noRstFor 1070 s.host = true) :
    BusyFor 1070 (startPrim .reset false s) (primDone (slotEnd .reset false 2 (hostAfterBusy 1070 s.host) (resetSlot s))) := by
  obtain ⟨hr1, hr'⟩ := noRstFor_split (a := 500) (b := 570) hr
  obtain ⟨hr2, hr3⟩ := noRstFor_split (a := 70) (b := 500) hr'
  have hh : hostAfterBusy 1070 s.host = hostAfterBusy 500 (hostAfterBusy 70 (hostAfterBusy 500 s.host)) := by
    rw [← hostAfterBusy_add, ← hostAfterBusy_add]
  unfold slotEnd
  rw [hh]
  generalize e1 : hostAfterBusy 500 s.host = h1 at *
  generalize e2 : hostAfterBusy 70 h1 = h2 at *
  generalize e3 : hostAfterBusy 500 h2 = h3 at *
  cases s with | mk =>
  dsimp only at hb hc hr1 e1
  subst hb hc
  refine busyFor_trans (a := 500) (b := 570)
    (busyFor_segment_to (r := ⟨.L, 500, .none, false⟩) 500 rfl (by decide) rfl rfl hr1 e1 rfl) ?_
  refine busyFor_trans (a := 70) (b := 500)
    (busyFor_segment_to (r := ⟨.H, 70, .presence, false⟩) 70 rfl (by decide) rfl rfl hr2 e2 rfl) ?_
  exact busyFor_segment_to (r := ⟨.H, 500, .none, true⟩) 500 rfl (by decide) rfl rfl hr3 e3 rfl

/-- A write slot (R124, R30): the pseudocode of R124 in 65 ticks, for either bit. -/
theorem busyFor_writeSlot {s : State} (b : Bool) (hb : s.busy = true) (hc : s.cur = 0)
    (hr : noRstFor 65 s.host = true) :
    BusyFor 65 (startPrim .wbit b s) (primDone (slotEnd .wbit b 1 (hostAfterBusy 65 s.host) (writeSlot b s))) := by
  cases b
  · obtain ⟨hr1, hr2⟩ := noRstFor_split (a := 60) (b := 5) hr
    have hh : hostAfterBusy 65 s.host = hostAfterBusy 5 (hostAfterBusy 60 s.host) := by
      rw [← hostAfterBusy_add]
    unfold slotEnd
    rw [hh]
    cases s with | mk =>
    dsimp only at hb hc hr1 hr2
    subst hb hc
    exact busyFor_trans (a := 60) (b := 5)
      (busyFor_segment (r := ⟨.L, 60, .none, false⟩) 60 rfl (by decide) rfl rfl hr1 rfl)
      (busyFor_segment (r := ⟨.H, 5, .none, true⟩) 5 rfl (by decide) rfl rfl hr2 rfl)
  · obtain ⟨hr1, hr2⟩ := noRstFor_split (a := 10) (b := 55) hr
    have hh : hostAfterBusy 65 s.host = hostAfterBusy 55 (hostAfterBusy 10 s.host) := by
      rw [← hostAfterBusy_add]
    unfold slotEnd
    rw [hh]
    cases s with | mk =>
    dsimp only at hb hc hr1 hr2
    subst hb hc
    exact busyFor_trans (a := 10) (b := 55)
      (busyFor_segment (r := ⟨.L, 10, .none, false⟩) 10 rfl (by decide) rfl rfl hr1 rfl)
      (busyFor_segment (r := ⟨.H, 55, .none, true⟩) 55 rfl (by decide) rfl rfl hr2 rfl)

/-- A read slot (R125, R30): the pseudocode of R125 in 64 ticks, the bit going to `SHREG[BITIDX]`. -/
theorem busyFor_readSlot {s : State} (hb : s.busy = true) (hc : s.cur = 0) (hr : noRstFor 64 s.host = true) :
    BusyFor 64 (startPrim .rbit false s)
      (primDone (slotEnd .rbit false 2 (hostAfterBusy 64 s.host) (readSlot s.bitIdx.val s))) := by
  obtain ⟨hr1, hr'⟩ := noRstFor_split (a := 2) (b := 62) hr
  obtain ⟨hr2, hr3⟩ := noRstFor_split (a := 12) (b := 50) hr'
  have hh : hostAfterBusy 64 s.host = hostAfterBusy 50 (hostAfterBusy 12 (hostAfterBusy 2 s.host)) := by
    rw [← hostAfterBusy_add, ← hostAfterBusy_add]
  unfold slotEnd
  rw [hh]
  cases s with | mk =>
  dsimp only at hb hc hr1 hr2 hr3
  subst hb hc
  refine busyFor_trans (a := 2) (b := 62)
    (busyFor_segment (r := ⟨.L, 2, .none, false⟩) 2 rfl (by decide) rfl rfl hr1 rfl) ?_
  refine busyFor_trans (a := 12) (b := 50)
    (busyFor_segment (r := ⟨.H, 12, .bit, false⟩) 12 rfl (by decide) rfl rfl hr2 rfl) ?_
  exact busyFor_segment (r := ⟨.H, 50, .none, true⟩) 50 rfl (by decide) rfl rfl hr3 rfl

/-- A wait of the length the segment table gives it (R153, R30), the length under a name. -/
theorem busyFor_wait_of_length {s : State} (d : Nat) (hd : tConv = d) (hpos : 0 < d)
    (hfit : (BitVec.ofNat 20 d).toNat = d) (hb : s.busy = true) (hc : s.cur = 0) (hr : noRstFor d s.host = true) :
    BusyFor d (startPrim .wait false s) (primDone (slotEnd .wait false 0 (hostAfterBusy d s.host) (waitUs d s))) := by
  have hstart : startPrim .wait false s
      = { s with prim := .wait, wb := false, seg := 0, timer := BitVec.ofNat 20 d } := by
    rw [← hd]
    rfl
  rw [hstart]
  refine busyFor_segment (r := ⟨.H, d, .none, true⟩) d hb hpos hfit (by rw [← hd]; rfl) hr ?_
  rw [segmentEnd_last rfl (by show s.cur + d ≠ 0; omega)]
  cases s with | mk =>
  dsimp only at hc
  subst hc
  simp only [sampleFor, slotEnd, waitUs, Nat.zero_add]

/-- The conversion wait (R153, R30): 750,000 ticks with the line released. -/
theorem busyFor_wait {s : State} (hb : s.busy = true) (hc : s.cur = 0) (hr : noRstFor tConv s.host = true) :
    BusyFor tConv (startPrim .wait false s)
      (primDone (slotEnd .wait false 0 (hostAfterBusy tConv s.host) (waitUs tConv s))) :=
  busyFor_wait_of_length tConv rfl (by decide) (by decide) hb hc hr

/-! ## What a slot of a byte leaves alone -/

@[simp] theorem writeSlot_busy (b : Bool) (s : State) : (writeSlot b s).busy = s.busy := by simp [writeSlot]
@[simp] theorem writeSlot_cur (b : Bool) (s : State) : (writeSlot b s).cur = s.cur := by simp [writeSlot]
@[simp] theorem writeSlot_byteMode (b : Bool) (s : State) : (writeSlot b s).byteMode = s.byteMode := by
  simp [writeSlot]
@[simp] theorem writeSlot_bitIdx (b : Bool) (s : State) : (writeSlot b s).bitIdx = s.bitIdx := by simp [writeSlot]
@[simp] theorem writeSlot_shreg (b : Bool) (s : State) : (writeSlot b s).shreg = s.shreg := by simp [writeSlot]
@[simp] theorem readSlot_busy (i : Nat) (s : State) : (readSlot i s).busy = s.busy := by simp [readSlot]
@[simp] theorem readSlot_cur (i : Nat) (s : State) : (readSlot i s).cur = s.cur := by simp [readSlot]
@[simp] theorem readSlot_byteMode (i : Nat) (s : State) : (readSlot i s).byteMode = s.byteMode := by simp [readSlot]
@[simp] theorem readSlot_bitIdx (i : Nat) (s : State) : (readSlot i s).bitIdx = s.bitIdx := by simp [readSlot]

/-! ## `PrimDone`, and a whole byte -/

/-- `PrimDone` inside a byte goes on to the next slot (R31). -/
theorem primDone_inside {s : State} (hm : s.byteMode ≠ .none) (hi : s.bitIdx.val < 7) : primDone s = nextSlot s := by
  unfold primDone
  rw [if_pos ⟨hm, hi⟩]

theorem nextSlot_writing {s : State} (hm : s.byteMode = .writing) :
    nextSlot s
      = startPrim .wbit (s.shreg.getLsbD (s.bitIdx + 1).val) { s with bitIdx := s.bitIdx + 1 } := by
  unfold nextSlot
  rw [if_pos hm]

theorem nextSlot_reading {s : State} (hm : s.byteMode = .reading) :
    nextSlot s = startPrim .rbit false { s with bitIdx := s.bitIdx + 1 } := by
  unfold nextSlot
  rw [if_neg (by rw [hm]; decide)]

/-- `PrimDone` of a lone slot (R31). -/
theorem primDone_lone {s : State} (hm : s.byteMode = .none) :
    primDone s = measureNext { s with byteMode := .none, bitIdx := 0 } := by
  unfold primDone
  rw [if_neg fun h => h.1 hm]

/-- `PrimDone` of the eighth slot of a byte (R31). -/
theorem primDone_eighth {s : State} (hi : ¬s.bitIdx.val < 7) :
    primDone s = measureNext { s with byteMode := .none, bitIdx := 0 } := by
  unfold primDone
  rw [if_neg fun h => hi h.2]

/-- A state with another `BITIDX`, `err_ind` and host: what changes beside a slot while it runs. -/
def aside (i : Fin 8) (h : List PortIn) (s : State) : State := { s with bitIdx := i, errInd := false, host := h }

@[simp] theorem aside_shreg (i : Fin 8) (h : List PortIn) (s : State) : (aside i h s).shreg = s.shreg := rfl
@[simp] theorem aside_bitIdx (i : Fin 8) (h : List PortIn) (s : State) : (aside i h s).bitIdx = i := rfl
@[simp] theorem aside_host (i : Fin 8) (h : List PortIn) (s : State) : (aside i h s).host = h := rfl

@[simp] theorem slotEnd_shreg (p : Prim) (b : Bool) (sg : Fin 3) (h : List PortIn) (s : State) :
    (slotEnd p b sg h s).shreg = s.shreg := rfl
@[simp] theorem slotEnd_bitIdx (p : Prim) (b : Bool) (sg : Fin 3) (h : List PortIn) (s : State) :
    (slotEnd p b sg h s).bitIdx = s.bitIdx := rfl

/-- What changes beside them plays no part in the slots of a byte. -/
theorem foldl_writeSlot_aside (f : Nat → Bool) (js : List Nat) (s : State) (i : Fin 8) (h : List PortIn) :
    js.foldl (fun u j => writeSlot (f j) u) (aside i h s)
      = aside i h (js.foldl (fun u j => writeSlot (f j) u) s) := by
  induction js generalizing s with
  | nil => rfl
  | cons j js ih => rw [List.foldl_cons, List.foldl_cons, ← ih]; rfl

theorem foldl_readSlot_aside (js : List Nat) (s : State) (i : Fin 8) (h : List PortIn) :
    js.foldl (fun u j => readSlot j u) (aside i h s) = aside i h (js.foldl (fun u j => readSlot j u) s) := by
  induction js generalizing s with
  | nil => rfl
  | cons j js ih => rw [List.foldl_cons, List.foldl_cons, ← ih]; rfl

/-- Where the sequencer stands when a lone slot, a wait or the last slot of a byte has ended, before `MeasureNext` or
`Finish` (R31). -/
def slotsDone (p : Prim) (b : Bool) (sg : Fin 3) (h : List PortIn) (s : State) : State :=
  { slotEnd p b sg h s with byteMode := .none, bitIdx := 0 }

/-- Starting the next slot overwrites where the last one ended. -/
theorem startPrim_slotEnd {p : Prim} {b : Bool} {r : Segment} (hr : segTable p b 0 = some r) (p' : Prim) (b' : Bool)
    (sg : Fin 3) (h : List PortIn) (i : Fin 8) (s : State) :
    startPrim p b { slotEnd p' b' sg h s with bitIdx := i } = startPrim p b (aside i h s) := by
  unfold startPrim
  rw [hr]
  dsimp only
  split <;> rfl

theorem slotsDone_aside (p : Prim) (b : Bool) (sg : Fin 3) (h h' : List PortIn) (i : Fin 8) (s : State) :
    slotsDone p b sg h (aside i h' s) = slotsDone p b sg h s := rfl

theorem bitIdx_succ_val {i : Fin 8} (h : i.val < 7) : (i + 1).val = i.val + 1 := by
  rw [Fin.val_add_one_of_lt (by rw [Fin.lt_def]; exact h)]

/-- The rest of a byte being written, from slot `BITIDX` on (R31, R141). -/
theorem busyFor_restOfWrite (k : Nat) {s : State} (hb : s.busy = true) (hc : s.cur = 0) (hm : s.byteMode = .writing)
    (hi : s.bitIdx.val + k = 7) (hr : noRstFor (65 * (k + 1)) s.host = true) :
    BusyFor (65 * (k + 1)) (startPrim .wbit (s.shreg.getLsbD s.bitIdx.val) s)
      (measureNext
        (slotsDone .wbit (s.shreg.getLsbD 7) 1 (hostAfterBusy (65 * (k + 1)) s.host)
          ((List.range' s.bitIdx.val (k + 1)).foldl (fun u j => writeSlot (s.shreg.getLsbD j) u) s))) := by
  induction k generalizing s with
  | zero =>
    have h7 : s.bitIdx.val = 7 := hi
    have hslot := busyFor_writeSlot (s.shreg.getLsbD s.bitIdx.val) hb hc hr
    have hdone := primDone_eighth
      (s := slotEnd .wbit (s.shreg.getLsbD s.bitIdx.val) 1 (hostAfterBusy 65 s.host) (writeSlot (s.shreg.getLsbD s.bitIdx.val) s))
      (show ¬s.bitIdx.val < 7 by omega)
    rw [hdone, h7] at hslot
    rw [h7]
    exact hslot
  | succ k ih =>
    have hlt : s.bitIdx.val < 7 := by omega
    rw [show 65 * (k + 1 + 1) = 65 + 65 * (k + 1) by omega] at hr ⊢
    obtain ⟨h1, h2⟩ := noRstFor_split hr
    have hcons : List.range' s.bitIdx.val (k + 1 + 1) = s.bitIdx.val :: List.range' (s.bitIdx + 1).val (k + 1) := by
      rw [bitIdx_succ_val hlt, List.range'_succ]
    have hfirst := busyFor_writeSlot (s.shreg.getLsbD s.bitIdx.val) hb hc h1
    rw [hostAfterBusy_add, hcons, List.foldl_cons]
    have hsh := writeSlot_shreg (s.shreg.getLsbD s.bitIdx.val) s
    have hbi := writeSlot_bitIdx (s.shreg.getLsbD s.bitIdx.val) s
    have hbw := (writeSlot_busy (s.shreg.getLsbD s.bitIdx.val) s).trans hb
    have hcw := (writeSlot_cur (s.shreg.getLsbD s.bitIdx.val) s).trans hc
    have hmw := (writeSlot_byteMode (s.shreg.getLsbD s.bitIdx.val) s).trans hm
    generalize writeSlot (s.shreg.getLsbD s.bitIdx.val) s = w at hfirst hsh hbi hbw hcw hmw ⊢
    rw [primDone_inside (s := slotEnd .wbit _ 1 (hostAfterBusy 65 s.host) w) (by show w.byteMode ≠ .none; rw [hmw]; decide)
        (by show w.bitIdx.val < 7; rw [hbi]; exact hlt),
      nextSlot_writing (s := slotEnd .wbit _ 1 (hostAfterBusy 65 s.host) w) hmw, startPrim_slotEnd rfl] at hfirst
    refine busyFor_trans hfirst ?_
    have hrest := ih (s := aside (w.bitIdx + 1) (hostAfterBusy 65 s.host) w) hbw hcw hmw
      (by show (w.bitIdx + 1).val + k = 7; rw [hbi, bitIdx_succ_val hlt]; omega) h2
    rw [foldl_writeSlot_aside (fun j => (aside (w.bitIdx + 1) (hostAfterBusy 65 s.host) w).shreg.getLsbD j),
      slotsDone_aside, aside_shreg, aside_bitIdx, hsh, hbi] at hrest
    rw [slotEnd_shreg, slotEnd_bitIdx, hsh, hbi]
    rw [aside_host] at hrest
    exact hrest

/-- The rest of a byte being read, from slot `BITIDX` on (R31, R143). -/
theorem busyFor_restOfRead (k : Nat) {s : State} (hb : s.busy = true) (hc : s.cur = 0) (hm : s.byteMode = .reading)
    (hi : s.bitIdx.val + k = 7) (hr : noRstFor (64 * (k + 1)) s.host = true) :
    BusyFor (64 * (k + 1)) (startPrim .rbit false s)
      (measureNext
        (slotsDone .rbit false 2 (hostAfterBusy (64 * (k + 1)) s.host)
          ((List.range' s.bitIdx.val (k + 1)).foldl (fun u j => readSlot j u) s))) := by
  induction k generalizing s with
  | zero =>
    have h7 : s.bitIdx.val = 7 := hi
    have hslot := busyFor_readSlot hb hc hr
    have hdone := primDone_eighth (s := slotEnd .rbit false 2 (hostAfterBusy 64 s.host) (readSlot s.bitIdx.val s))
      (show ¬s.bitIdx.val < 7 by omega)
    rw [hdone, h7] at hslot
    rw [h7]
    exact hslot
  | succ k ih =>
    have hlt : s.bitIdx.val < 7 := by omega
    rw [show 64 * (k + 1 + 1) = 64 + 64 * (k + 1) by omega] at hr ⊢
    obtain ⟨h1, h2⟩ := noRstFor_split hr
    have hcons : List.range' s.bitIdx.val (k + 1 + 1) = s.bitIdx.val :: List.range' (s.bitIdx + 1).val (k + 1) := by
      rw [bitIdx_succ_val hlt, List.range'_succ]
    have hfirst := busyFor_readSlot hb hc h1
    rw [hostAfterBusy_add, hcons, List.foldl_cons]
    have hbi := readSlot_bitIdx s.bitIdx.val s
    have hbw := (readSlot_busy s.bitIdx.val s).trans hb
    have hcw := (readSlot_cur s.bitIdx.val s).trans hc
    have hmw := (readSlot_byteMode s.bitIdx.val s).trans hm
    generalize readSlot s.bitIdx.val s = w at hfirst hbi hbw hcw hmw ⊢
    rw [primDone_inside (s := slotEnd .rbit false 2 (hostAfterBusy 64 s.host) w) (by show w.byteMode ≠ .none; rw [hmw]; decide)
        (by show w.bitIdx.val < 7; rw [hbi]; exact hlt),
      nextSlot_reading (s := slotEnd .rbit false 2 (hostAfterBusy 64 s.host) w) hmw, startPrim_slotEnd rfl] at hfirst
    refine busyFor_trans hfirst ?_
    have hrest := ih (s := aside (w.bitIdx + 1) (hostAfterBusy 64 s.host) w) hbw hcw hmw
      (by show (w.bitIdx + 1).val + k = 7; rw [hbi, bitIdx_succ_val hlt]; omega) h2
    rw [foldl_readSlot_aside, slotsDone_aside, aside_bitIdx, aside_host, hbi] at hrest
    rw [slotEnd_bitIdx, hbi]
    exact hrest

/-- The position a byte is sent from changes nothing that the slots of the byte write. -/
theorem foldl_writeSlot_position (f : Nat → Bool) (js : List Nat) (m : ByteMode) (i : Fin 8) (s : State) :
    js.foldl (fun u j => writeSlot (f j) u) { s with byteMode := m, bitIdx := i }
      = { js.foldl (fun u j => writeSlot (f j) u) s with byteMode := m, bitIdx := i } := by
  induction js generalizing s with
  | nil => rfl
  | cons j js ih => rw [List.foldl_cons, List.foldl_cons, ← ih]; rfl

theorem foldl_readSlot_position (js : List Nat) (m : ByteMode) (i : Fin 8) (s : State) :
    js.foldl (fun u j => readSlot j u) { s with byteMode := m, bitIdx := i }
      = { js.foldl (fun u j => readSlot j u) s with byteMode := m, bitIdx := i } := by
  induction js generalizing s with
  | nil => rfl
  | cons j js ih => rw [List.foldl_cons, List.foldl_cons, ← ih]; rfl

theorem slotsDone_position (p : Prim) (b : Bool) (sg : Fin 3) (h : List PortIn) (m : ByteMode) (i : Fin 8) (s : State) :
    slotsDone p b sg h { s with byteMode := m, bitIdx := i } = slotsDone p b sg h s := rfl

/-- A whole byte written (R141): the pseudocode of R141 in 520 ticks, then whatever comes next. -/
theorem busyFor_writeByte {s : State} (d : Byte) (hb : s.busy = true) (hc : s.cur = 0)
    (hr : noRstFor 520 s.host = true) :
    BusyFor 520 (startWByte d s)
      (measureNext (slotsDone .wbit (d.getLsbD 7) 1 (hostAfterBusy 520 s.host) (writeByteSlots d s))) := by
  have hbyte := busyFor_restOfWrite 7 (s := { s with shreg := d, byteMode := .writing, bitIdx := 0 }) hb hc rfl rfl hr
  have hslots := foldl_writeSlot_position (fun j => d.getLsbD j) (List.range 8) .writing 0 { s with shreg := d }
  dsimp only at hbyte
  rw [show List.range' (0 : Fin 8).val (7 + 1) = List.range 8 from rfl, hslots, slotsDone_position] at hbyte
  exact hbyte

/-- A whole byte read (R143): the pseudocode of R143 in 512 ticks, then whatever comes next. -/
theorem busyFor_readByte {s : State} (hb : s.busy = true) (hc : s.cur = 0) (hr : noRstFor 512 s.host = true) :
    BusyFor 512 (startRByte s) (measureNext (slotsDone .rbit false 2 (hostAfterBusy 512 s.host) (readByteSlots s))) := by
  have hbyte := busyFor_restOfRead 7 (s := { s with shreg := 0, byteMode := .reading, bitIdx := 0 }) hb hc rfl rfl hr
  have hslots := foldl_readSlot_position (List.range 8) .reading 0 { s with shreg := 0 }
  dsimp only at hbyte
  rw [show List.range' (0 : Fin 8).val (7 + 1) = List.range 8 from rfl, hslots, slotsDone_position] at hbyte
  exact hbyte

end Sys2Proof.Machine
end

