-- ==== Sys2Proof/Laws/Sequence.lean ====
section
/-! SUPPORT. The pieces a measurement is made of, each as a run of ticks from one call of `MeasureNext` to the next
(spec/10_state.md R31, R32), over the pseudocode of the slots and bytes; acceptance and the end of a command, each said
once (R28, R33). -/

namespace Sys2Proof.Machine

/-! ## Acceptance -/

/-- Accepting a command while idle (R28). -/
theorem acceptCmd_of_idle (start : State → State) {s : State} (hb : s.busy = false) :
    acceptCmd start s = .next (start { flush s with done := false }) := by
  unfold acceptCmd
  rw [if_neg (by simp [hb])]

/-- A command presented while busy is not taken (R28). -/
theorem acceptCmd_of_busy (start : State → State) {s : State} (hb : s.busy = true) : acceptCmd start s = .next s := by
  unfold acceptCmd
  rw [if_pos hb]

/-! ## Position and data apart -/

/-- The data of `s` at the sequencer position, with the handshake, the host and the `err_ind`, of `q`. -/
def placed (q s : State) : State :=
  { s with
    mstep := q.mstep, prim := q.prim, wb := q.wb, seg := q.seg, byteMode := q.byteMode, bitIdx := q.bitIdx
    timer := q.timer, busy := q.busy, done := q.done, errInd := q.errInd, host := q.host }

theorem placed_placed (q q' s : State) : placed q (placed q' s) = placed q s := rfl
theorem resetSlot_placed (q s : State) : resetSlot (placed q s) = placed q (resetSlot s) := rfl
theorem waitUs_placed (n : Nat) (q s : State) : waitUs n (placed q s) = placed q (waitUs n s) := rfl
theorem writeSlot_placed (b : Bool) (q s : State) : writeSlot b (placed q s) = placed q (writeSlot b s) := rfl
theorem readSlot_placed (i : Nat) (q s : State) : readSlot i (placed q s) = placed q (readSlot i s) := rfl

theorem foldl_writeSlot_placed (f : Nat → Bool) (js : List Nat) (q s : State) :
    js.foldl (fun u j => writeSlot (f j) u) (placed q s) = placed q (js.foldl (fun u j => writeSlot (f j) u) s) := by
  induction js generalizing s with
  | nil => rfl
  | cons j js ih => rw [List.foldl_cons, List.foldl_cons, ← ih, writeSlot_placed]

theorem foldl_readSlot_placed (js : List Nat) (q s : State) :
    js.foldl (fun u j => readSlot j u) (placed q s) = placed q (js.foldl (fun u j => readSlot j u) s) := by
  induction js generalizing s with
  | nil => rfl
  | cons j js ih => rw [List.foldl_cons, List.foldl_cons, ← ih, readSlot_placed]

theorem writeByteSlots_placed (d : Byte) (q s : State) :
    writeByteSlots d (placed q s) = placed q (writeByteSlots d s) :=
  foldl_writeSlot_placed (fun j => d.getLsbD j) (List.range 8) q { s with shreg := d }

theorem readByteSlots_placed (q s : State) : readByteSlots (placed q s) = placed q (readByteSlots s) :=
  foldl_readSlot_placed (List.range 8) q { s with shreg := 0 }

/-! ## What the pieces leave alone -/

@[simp] theorem keepLsb_cur (s : State) : (keepLsb s).cur = s.cur := rfl

@[simp] theorem readSlot_presence (i : Nat) (s : State) : (readSlot i s).presence = s.presence := by simp [readSlot]
@[simp] theorem readSlot_mstep (i : Nat) (s : State) : (readSlot i s).mstep = s.mstep := by simp [readSlot]
@[simp] theorem readSlot_op (i : Nat) (s : State) : (readSlot i s).op = s.op := by simp [readSlot]
@[simp] theorem writeSlot_presence (b : Bool) (s : State) : (writeSlot b s).presence = s.presence := by
  simp [writeSlot]
@[simp] theorem writeSlot_mstep (b : Bool) (s : State) : (writeSlot b s).mstep = s.mstep := by simp [writeSlot]
@[simp] theorem writeSlot_op (b : Bool) (s : State) : (writeSlot b s).op = s.op := by simp [writeSlot]
@[simp] theorem resetSlot_busy (s : State) : (resetSlot s).busy = s.busy := by simp [resetSlot]
@[simp] theorem resetSlot_cur (s : State) : (resetSlot s).cur = s.cur := by simp [resetSlot]
@[simp] theorem resetSlot_mstep (s : State) : (resetSlot s).mstep = s.mstep := by simp [resetSlot]
@[simp] theorem resetSlot_byteMode (s : State) : (resetSlot s).byteMode = s.byteMode := by simp [resetSlot]
@[simp] theorem resetSlot_op (s : State) : (resetSlot s).op = s.op := by simp [resetSlot]

/-- A whole `WBIT` writes no data register (R124). -/
@[simp] theorem cmdWbit_shreg (b : Bool) (s : State) : (cmdWbit b s).shreg = s.shreg := by
  simp [cmdWbit, cmdEnd, cmdBegin]
@[simp] theorem cmdWbit_data (b : Bool) (s : State) : (cmdWbit b s).data = s.data := by
  simp [cmdWbit, cmdEnd, cmdBegin, writeSlot]

/-- What every slot of a byte leaves alone, the whole byte leaves alone. -/
theorem foldl_leaves {α : Type} (f : State → α) (slot : Nat → State → State) (h : ∀ j u, f (slot j u) = f u)
    (js : List Nat) (s : State) : f (js.foldl (fun u j => slot j u) s) = f s := by
  induction js generalizing s with
  | nil => rfl
  | cons j js ih => rw [List.foldl_cons, ih, h]

@[simp] theorem writeByteSlots_busy (d : Byte) (s : State) : (writeByteSlots d s).busy = s.busy :=
  foldl_leaves State.busy (fun j => writeSlot (d.getLsbD j)) (by simp) _ { s with shreg := d }
@[simp] theorem writeByteSlots_cur (d : Byte) (s : State) : (writeByteSlots d s).cur = s.cur :=
  foldl_leaves State.cur (fun j => writeSlot (d.getLsbD j)) (by simp) _ { s with shreg := d }
@[simp] theorem writeByteSlots_mstep (d : Byte) (s : State) : (writeByteSlots d s).mstep = s.mstep :=
  foldl_leaves State.mstep (fun j => writeSlot (d.getLsbD j)) (by simp) _ { s with shreg := d }
@[simp] theorem writeByteSlots_presence (d : Byte) (s : State) : (writeByteSlots d s).presence = s.presence :=
  foldl_leaves State.presence (fun j => writeSlot (d.getLsbD j)) (by simp) _ { s with shreg := d }
@[simp] theorem writeByteSlots_op (d : Byte) (s : State) : (writeByteSlots d s).op = s.op :=
  foldl_leaves State.op (fun j => writeSlot (d.getLsbD j)) (by simp) _ { s with shreg := d }
@[simp] theorem writeByteSlots_shreg (d : Byte) (s : State) : (writeByteSlots d s).shreg = d :=
  foldl_leaves State.shreg (fun j => writeSlot (d.getLsbD j)) (by simp) _ { s with shreg := d }
@[simp] theorem readByteSlots_busy (s : State) : (readByteSlots s).busy = s.busy :=
  foldl_leaves State.busy readSlot (by simp) _ { s with shreg := 0 }
@[simp] theorem readByteSlots_cur (s : State) : (readByteSlots s).cur = s.cur :=
  foldl_leaves State.cur readSlot (by simp) _ { s with shreg := 0 }
@[simp] theorem readByteSlots_mstep (s : State) : (readByteSlots s).mstep = s.mstep :=
  foldl_leaves State.mstep readSlot (by simp) _ { s with shreg := 0 }
@[simp] theorem readByteSlots_presence (s : State) : (readByteSlots s).presence = s.presence :=
  foldl_leaves State.presence readSlot (by simp) _ { s with shreg := 0 }
@[simp] theorem readByteSlots_op (s : State) : (readByteSlots s).op = s.op :=
  foldl_leaves State.op readSlot (by simp) _ { s with shreg := 0 }

/-! ## From one call of `MeasureNext` to the next -/

/-- `x` has the data `w`, stands between two primitives at step `m` of `MSTEP`, busy, and the host's list is `h`. -/
def Between (m : MStep) (h : List PortIn) (w x : State) : Prop :=
  ∃ q, x = placed q w ∧ q.mstep = m ∧ q.byteMode = .none ∧ q.busy = true ∧ q.host = h

theorem Between.mstep_eq {m : MStep} {h : List PortIn} {w x : State} (hx : Between m h w x) : x.mstep = m := by
  obtain ⟨q, rfl, h1, -, -, -⟩ := hx
  exact h1

theorem Between.presence_eq {m : MStep} {h : List PortIn} {w x : State} (hx : Between m h w x) :
    x.presence = w.presence := by
  obtain ⟨q, rfl, -, -, -, -⟩ := hx
  rfl

theorem Between.to_step {m : MStep} {h : List PortIn} {w x : State} (m' : MStep) (hx : Between m h w x) :
    Between m' h w { x with mstep := m' } := by
  obtain ⟨q, rfl, -, h2, h3, h4⟩ := hx
  exact ⟨{ q with mstep := m' }, rfl, rfl, h2, h3, h4⟩

theorem Between.keepLsb {m : MStep} {h : List PortIn} {w x : State} (hx : Between m h w x) :
    Between m h (keepLsb w) (keepLsb x) := by
  obtain ⟨q, rfl, h1, h2, h3, h4⟩ := hx
  exact ⟨q, rfl, h1, h2, h3, h4⟩

/-- Where a primitive has ended, its own position is cleared down to `BYTEMODE` and the place in the command is kept. -/
theorem slotsDone_eq_placed (p : Prim) (b : Bool) (sg : Fin 3) (h : List PortIn) (s : State) :
    ∃ q, slotsDone p b sg h s = placed q s ∧ q.mstep = s.mstep ∧ q.byteMode = .none ∧ q.busy = s.busy ∧ q.host = h
      ∧ q.errInd = false :=
  ⟨slotsDone p b sg h s, rfl, rfl, rfl, rfl, rfl, rfl⟩

theorem primDone_lone_slotEnd (p : Prim) (b : Bool) (sg : Fin 3) (h : List PortIn) {s : State}
    (hm : s.byteMode = .none) : primDone (slotEnd p b sg h s) = measureNext (slotsDone p b sg h s) :=
  primDone_lone hm

theorem between_resetSlot {m : MStep} {h : List PortIn} {w x : State} (hc : w.cur = 0) (hx : Between m h w x)
    (hr : noRstFor 1070 h = true) :
    ∃ y, BusyFor 1070 (startPrim .reset false x) (measureNext y)
      ∧ Between m (hostAfterBusy 1070 h) (resetSlot w) y := by
  obtain ⟨q, rfl, h1, h2, h3, rfl⟩ := hx
  have hrun := busyFor_resetSlot (s := placed q w) h3 hc hr
  rw [primDone_lone_slotEnd _ _ _ _ (by rw [resetSlot_byteMode]; exact h2)] at hrun
  obtain ⟨q', e, a1, a2, a3, a4, a5⟩ :=
    slotsDone_eq_placed .reset false 2 (hostAfterBusy 1070 (placed q w).host) (resetSlot (placed q w))
  rw [e, resetSlot_placed, placed_placed] at hrun
  exact ⟨_, hrun, q', rfl, a1.trans ((resetSlot_mstep _).trans h1), a2, a3.trans ((resetSlot_busy _).trans h3), a4⟩

theorem between_writeByte {m : MStep} {h : List PortIn} {w x : State} (d : Byte) (hc : w.cur = 0)
    (hx : Between m h w x) (hr : noRstFor 520 h = true) :
    ∃ y, BusyFor 520 (startWByte d x) (measureNext y) ∧ Between m (hostAfterBusy 520 h) (writeByteSlots d w) y := by
  obtain ⟨q, rfl, h1, h2, h3, rfl⟩ := hx
  have hrun := busyFor_writeByte (s := placed q w) d h3 hc hr
  obtain ⟨q', e, a1, a2, a3, a4, a5⟩ :=
    slotsDone_eq_placed .wbit (d.getLsbD 7) 1 (hostAfterBusy 520 (placed q w).host) (writeByteSlots d (placed q w))
  rw [e, writeByteSlots_placed, placed_placed] at hrun
  exact ⟨_, hrun, q', rfl, a1.trans ((writeByteSlots_mstep _ _).trans h1), a2,
    a3.trans ((writeByteSlots_busy _ _).trans h3), a4⟩

theorem between_readByte {m : MStep} {h : List PortIn} {w x : State} (hc : w.cur = 0) (hx : Between m h w x)
    (hr : noRstFor 512 h = true) :
    ∃ y, BusyFor 512 (startRByte x) (measureNext y) ∧ Between m (hostAfterBusy 512 h) (readByteSlots w) y
      ∧ y.errInd = false := by
  obtain ⟨q, rfl, h1, h2, h3, rfl⟩ := hx
  have hrun := busyFor_readByte (s := placed q w) h3 hc hr
  obtain ⟨q', e, a1, a2, a3, a4, a5⟩ :=
    slotsDone_eq_placed .rbit false 2 (hostAfterBusy 512 (placed q w).host) (readByteSlots (placed q w))
  rw [e, readByteSlots_placed, placed_placed] at hrun
  exact ⟨_, hrun, ⟨q', rfl, a1.trans ((readByteSlots_mstep _).trans h1), a2,
    a3.trans ((readByteSlots_busy _).trans h3), a4⟩, a5⟩

theorem between_wait {m : MStep} {h : List PortIn} {w x : State} (d : Nat) (hd : tConv = d) (hpos : 0 < d)
    (hfit : (BitVec.ofNat 20 d).toNat = d) (hc : w.cur = 0) (hx : Between m h w x) (hr : noRstFor d h = true) :
    ∃ y, BusyFor d (startPrim .wait false x) (measureNext y) ∧ Between m (hostAfterBusy d h) (waitUs d w) y := by
  obtain ⟨q, rfl, h1, h2, h3, rfl⟩ := hx
  have hrun := busyFor_wait_of_length (s := placed q w) d hd hpos hfit h3 hc hr
  rw [primDone_lone_slotEnd _ _ _ _ (by exact h2)] at hrun
  obtain ⟨q', e, a1, a2, a3, a4, a5⟩ :=
    slotsDone_eq_placed .wait false 0 (hostAfterBusy d (placed q w).host) (waitUs d (placed q w))
  rw [e, waitUs_placed, placed_placed] at hrun
  exact ⟨_, hrun, q', rfl, a1.trans h1, a2, a3.trans h3, a4⟩

/-- `MeasureNext` after a first or a second reset that found a device (R32). -/
theorem measureNext_present {s : State} (hp : s.presence = true) :
    (s.mstep = .reset1 → measureNext s = startWByte (lineCmdByte .skipRom) { s with mstep := .skip1 })
      ∧ (s.mstep = .reset2 → measureNext s = startWByte (lineCmdByte .skipRom) { s with mstep := .skip2 }) := by
  constructor <;> intro hm <;> unfold measureNext ifPresent <;> rw [hm] <;> dsimp only <;> rw [if_pos hp]

/-- `MeasureNext` after a reset that found none (R32, R151). -/
theorem measureNext_absent {s : State} (hm : s.mstep = .reset1 ∨ s.mstep = .reset2) (hp : s.presence = false) :
    measureNext s = takeError .notPresent s := by
  unfold measureNext ifPresent
  rcases hm with hm | hm <;> rw [hm] <;> simp [hp]

/-- Steps 2 to 4 of `MEASURE` (R150) in ticks, the conversion wait under a name. -/
theorem between_steps24 {h : List PortIn} {w x : State} (d : Nat) (hd : tConv = d) (hpos : 0 < d)
    (hfit : (BitVec.ofNat 20 d).toNat = d) (hc : w.cur = 0) (hx : Between .reset1 h w x) (hp : w.presence = true)
    (hr : noRstFor (520 + (520 + (d + 1070))) h = true) :
    ∃ y, BusyFor (520 + (520 + (d + 1070))) (measureNext x) (measureNext y)
      ∧ Between .reset2 (hostAfterBusy (520 + (520 + (d + 1070))) h) (measureSteps24 w) y := by
  obtain ⟨r1, r⟩ := noRstFor_split hr
  obtain ⟨r2, r⟩ := noRstFor_split r
  obtain ⟨r3, r4⟩ := noRstFor_split r
  have hc1 : (writeByteSlots (lineCmdByte .skipRom) w).cur = 0 := by simpa using hc
  have hc2 : (writeByteSlots (lineCmdByte .convertT) (writeByteSlots (lineCmdByte .skipRom) w)).cur = 0 := by
    simpa using hc
  obtain ⟨y1, b1, a1⟩ := between_writeByte (lineCmdByte .skipRom) hc (hx.to_step .skip1) r1
  obtain ⟨y2, b2, a2⟩ := between_writeByte (lineCmdByte .convertT) hc1 (a1.to_step .convert) r2
  obtain ⟨y3, b3, a3⟩ := between_wait d hd hpos hfit hc2 (a2.to_step .wait) r3
  have hc3 : (waitUs d (writeByteSlots (lineCmdByte .convertT) (writeByteSlots (lineCmdByte .skipRom) w))).cur = 0 :=
    hc2
  obtain ⟨y4, b4, a4⟩ := between_resetSlot hc3 (a3.to_step .reset2) r4
  rw [show measureNext y1 = startWByte (lineCmdByte .convertT) { y1 with mstep := .convert } by
    unfold measureNext; rw [a1.mstep_eq]] at b1
  rw [show measureNext y2 = startPrim .wait false { y2 with mstep := .wait } by
    unfold measureNext; rw [a2.mstep_eq]] at b2
  rw [show measureNext y3 = startPrim .reset false { y3 with mstep := .reset2 } by
    unfold measureNext; rw [a3.mstep_eq]] at b3
  rw [(measureNext_present (hx.presence_eq.trans hp)).1 hx.mstep_eq]
  refine ⟨y4, busyFor_trans b1 (busyFor_trans b2 (busyFor_trans b3 b4)), ?_⟩
  rw [hostAfterBusy_add, hostAfterBusy_add, hostAfterBusy_add]
  unfold measureSteps24
  rw [hd]
  exact a4

/-- Steps 5 and 6 of `MEASURE` (R150) in ticks, up to the decoding. -/
theorem between_steps58 {h : List PortIn} {w x : State} (hc : w.cur = 0) (hx : Between .reset2 h w x)
    (hp : w.presence = true) (hr : noRstFor (520 + (520 + (512 + 512))) h = true) :
    ∃ y, BusyFor (520 + (520 + (512 + 512))) (measureNext x) (finish (decodeResult (keepMsb y)))
      ∧ Between .byteMsb (hostAfterBusy (520 + (520 + (512 + 512))) h)
          (readByteSlots (keepLsb (readByteSlots
            (writeByteSlots (lineCmdByte .readSp) (writeByteSlots (lineCmdByte .skipRom) w))))) y
      ∧ y.errInd = false := by
  obtain ⟨r1, r⟩ := noRstFor_split hr
  obtain ⟨r2, r⟩ := noRstFor_split r
  obtain ⟨r3, r4⟩ := noRstFor_split r
  have hc1 : (writeByteSlots (lineCmdByte .skipRom) w).cur = 0 := by simpa using hc
  have hc2 : (writeByteSlots (lineCmdByte .readSp) (writeByteSlots (lineCmdByte .skipRom) w)).cur = 0 := by
    simpa using hc
  have hc3 : (keepLsb (readByteSlots (writeByteSlots (lineCmdByte .readSp)
      (writeByteSlots (lineCmdByte .skipRom) w)))).cur = 0 := by
    rw [keepLsb_cur, readByteSlots_cur]
    exact hc2
  obtain ⟨y1, b1, a1⟩ := between_writeByte (lineCmdByte .skipRom) hc (hx.to_step .skip2) r1
  obtain ⟨y2, b2, a2⟩ := between_writeByte (lineCmdByte .readSp) hc1 (a1.to_step .readSp) r2
  obtain ⟨y3, b3, a3, -⟩ := between_readByte hc2 (a2.to_step .byteLsb) r3
  obtain ⟨y4, b4, a4, e4⟩ := between_readByte hc3 (a3.keepLsb.to_step .byteMsb) r4
  rw [show measureNext y1 = startWByte (lineCmdByte .readSp) { y1 with mstep := .readSp } by
    unfold measureNext; rw [a1.mstep_eq]] at b1
  rw [show measureNext y2 = startRByte { y2 with mstep := .byteLsb } by
    unfold measureNext; rw [a2.mstep_eq]] at b2
  rw [show measureNext y3 = startRByte { keepLsb y3 with mstep := .byteMsb } by
    unfold measureNext; rw [a3.mstep_eq]; rfl] at b3
  rw [show measureNext y4 = finish (decodeResult (keepMsb y4)) by
    unfold measureNext; rw [a4.mstep_eq]; rfl] at b4
  rw [(measureNext_present (hx.presence_eq.trans hp)).2 hx.mstep_eq]
  refine ⟨y4, busyFor_trans b1 (busyFor_trans b2 (busyFor_trans b3 b4)), ?_, e4⟩
  rw [hostAfterBusy_add, hostAfterBusy_add, hostAfterBusy_add]
  exact a4

/-! ## The end of a command -/

/-- `raise NotPresent` ends the command as the command rule says (R151, R192, R33). -/
theorem takeError_notPresent_between {m : MStep} {h : List PortIn} {w x : State} (hx : Between m h w x)
    (hop : w.op = .measure) : takeError .notPresent x = { cmdNotPresent w with host := h } := by
  obtain ⟨q, rfl, -, -, -, rfl⟩ := hx
  unfold takeError finish finishData cmdNotPresent cmdEnd clearPosition notifyError placed
  dsimp only
  rw [if_neg (by rw [hop]; decide)]

/-- A successful `MEASURE` ends as the command rule says (R150, R33), but for `err_ind`, which its last tick cleared. -/
theorem finish_decoded_between {m : MStep} {h : List PortIn} {w x : State} (hx : Between m h w x)
    (hop : w.op = .measure) :
    finish (decodeResult (keepMsb x))
      = { cmdEnd (decodeResult (keepMsb w)) with host := h, errInd := x.errInd } := by
  obtain ⟨q, rfl, -, -, -, rfl⟩ := hx
  unfold finish finishData cmdEnd clearPosition decodeResult keepMsb placed
  dsimp only
  rw [if_neg (by rw [hop]; decide)]
  rfl

end Sys2Proof.Machine
end

