-- ==== Sys2Proof/Laws/Cases.lean ====
section
/-! SUPPORT. What each shared operation can do, said once: a step, a tick, the end of a segment, `PrimDone`,
`MeasureNext`, the start of a slot, an acceptance (spec/10_state.md R28 to R33). -/

namespace Sys2Proof.Machine

/-- Everything a step can do: `rst`, a busy tick, an idle tick, an instruction taken, an illegal word taken. -/
theorem step_cases {s t : State} (h : step s = .next t) :
    ((portNow s).rst = true ∧ t = takeRst s)
      ∨ ((portNow s).rst = false ∧ s.busy = true ∧ tick (hostMoves s) = .next t)
      ∨ ((portNow s).rst = false ∧ s.busy = false ∧ fetch s = .nothing ∧ t = passTick (hostMoves s))
      ∨ ((portNow s).rst = false ∧ s.busy = false ∧ ∃ i, fetch s = .instr i ∧ exec i (hostMoves s) = .next t)
      ∨ ((portNow s).rst = false ∧ s.busy = false ∧ ∃ e, fetch s = .illegal e
          ∧ t = takeError .illegalCommand (hostMoves s)) := by
  unfold step at h
  split at h
  · rename_i hr
    exact .inl ⟨hr, (by simpa using h.symm)⟩
  · rename_i hr
    have hr : (portNow s).rst = false := by simpa using hr
    split at h
    · rename_i hb
      exact .inr (.inl ⟨hr, hb, h⟩)
    · rename_i hb
      have hb : s.busy = false := by simpa using hb
      split at h
      · rename_i hf
        exact .inr (.inr (.inl ⟨hr, hb, hf, (by simpa using h.symm)⟩))
      · rename_i i hf
        exact .inr (.inr (.inr (.inl ⟨hr, hb, i, hf, h⟩)))
      · rename_i e hf
        exact .inr (.inr (.inr (.inr ⟨hr, hb, e, hf, (by simpa using h.symm)⟩)))

/-- Everything a tick can do (R30): count, end a segment inside its slot, or end the slot. -/
theorem tick_cases {s t : State} (h : tick s = .next t) :
    (1 < s.timer.toNat ∧ t = { passTick s with timer := s.timer - 1 })
      ∨ (s.timer.toNat ≤ 1 ∧ ∃ r r2, segTable s.prim s.wb s.seg = some r ∧ r.last = false
          ∧ segTable s.prim s.wb (s.seg + 1) = some r2
          ∧ t = nextSegment r r2 (sampleFor r.smp (flush (passTick s))))
      ∨ (s.timer.toNat ≤ 1 ∧ ∃ r, segTable s.prim s.wb s.seg = some r ∧ r.last = true
          ∧ t = primDone (sampleFor r.smp (flush (passTick s)))) := by
  unfold tick at h
  split at h
  · rename_i hc
    exact .inl ⟨hc, (by simpa using h.symm)⟩
  · rename_i hc
    split at h
    · cases h
    · rename_i r hr
      unfold segmentEnd at h
      split at h
      · rename_i hl
        exact .inr (.inr ⟨by omega, r, hr, hl, (by simpa using h.symm)⟩)
      · rename_i hl
        split at h
        · cases h
        · rename_i r2 h2
          exact .inr (.inl ⟨by omega, r, r2, hr, by simpa using hl, h2, (by simpa using h.symm)⟩)

/-- `PrimDone` (R31) goes on inside a byte, or hands over to `MeasureNext` (which ends a lone command). -/
theorem primDone_cases (s : State) :
    (s.byteMode = .writing ∧ s.bitIdx.val < 7
        ∧ primDone s = startPrim .wbit (s.shreg.getLsbD (s.bitIdx + 1).val) { s with bitIdx := s.bitIdx + 1 })
      ∨ (s.byteMode = .reading ∧ s.bitIdx.val < 7
        ∧ primDone s = startPrim .rbit false { s with bitIdx := s.bitIdx + 1 })
      ∨ ((s.byteMode = .none ∨ 7 ≤ s.bitIdx.val)
        ∧ primDone s = measureNext { s with byteMode := .none, bitIdx := 0 }) := by
  by_cases hi : s.bitIdx.val < 7
  · rcases hm : s.byteMode with _ | _ | _
    · exact .inr (.inr ⟨.inl rfl, primDone_lone hm⟩)
    · exact .inl ⟨rfl, hi, hm ▸ (primDone_inside (by simp [hm]) hi).trans (nextSlot_writing hm)⟩
    · exact .inr (.inl ⟨rfl, hi, hm ▸ (primDone_inside (by simp [hm]) hi).trans (nextSlot_reading hm)⟩)
  · exact .inr (.inr ⟨.inr (by omega), primDone_eighth hi⟩)

/-- `MeasureNext` (R32): the command ends, it fails, or the next primitive starts at the next step. -/
theorem measureNext_cases (s : State) :
    (s.mstep = .idle ∧ measureNext s = finish s)
      ∨ ((s.mstep = .reset1 ∨ s.mstep = .reset2) ∧ s.presence = false ∧ measureNext s = takeError .notPresent s)
      ∨ (s.mstep = .byteMsb ∧ measureNext s = finish (decodeResult { s with spMsb := s.shreg }))
      ∨ (∃ m d, measureNext s = startWByte (lineCmdByte d) { s with mstep := m }
          ∧ ((s.mstep = .reset1 ∧ s.presence = true ∧ m = .skip1 ∧ d = .skipRom)
            ∨ (s.mstep = .skip1 ∧ m = .convert ∧ d = .convertT)
            ∨ (s.mstep = .reset2 ∧ s.presence = true ∧ m = .skip2 ∧ d = .skipRom)
            ∨ (s.mstep = .skip2 ∧ m = .readSp ∧ d = .readSp)))
      ∨ (s.mstep = .convert ∧ measureNext s = startPrim .wait false { s with mstep := .wait })
      ∨ (s.mstep = .wait ∧ measureNext s = startPrim .reset false { s with mstep := .reset2 })
      ∨ (s.mstep = .readSp ∧ measureNext s = startRByte { s with mstep := .byteLsb })
      ∨ (s.mstep = .byteLsb ∧ measureNext s = startRByte { s with spLsb := s.shreg, mstep := .byteMsb }) := by
  cases hm : s.mstep
  case idle => exact .inl ⟨rfl, by unfold measureNext; rw [hm]⟩
  case byteMsb => exact .inr (.inr (.inl ⟨rfl, by unfold measureNext; rw [hm]⟩))
  case convert => exact .inr (.inr (.inr (.inr (.inl ⟨rfl, by unfold measureNext; rw [hm]⟩))))
  case wait => exact .inr (.inr (.inr (.inr (.inr (.inl ⟨rfl, by unfold measureNext; rw [hm]⟩)))))
  case readSp => exact .inr (.inr (.inr (.inr (.inr (.inr (.inl ⟨rfl, by unfold measureNext; rw [hm]⟩))))))
  case byteLsb => exact .inr (.inr (.inr (.inr (.inr (.inr (.inr ⟨rfl, by unfold measureNext; rw [hm]⟩))))))
  case skip1 =>
    exact .inr (.inr (.inr (.inl ⟨.convert, .convertT, by unfold measureNext; rw [hm], by simp⟩)))
  case skip2 =>
    exact .inr (.inr (.inr (.inl ⟨.readSp, .readSp, by unfold measureNext; rw [hm], by simp⟩)))
  case reset1 =>
    by_cases hp : s.presence = true
    · exact .inr (.inr (.inr (.inl ⟨.skip1, .skipRom, (measureNext_present hp).1 hm, by simp [hp]⟩)))
    · have hp : s.presence = false := by simpa using hp
      exact .inr (.inl ⟨.inl rfl, hp, measureNext_absent (.inl hm) hp⟩)
  case reset2 =>
    by_cases hp : s.presence = true
    · exact .inr (.inr (.inr (.inl ⟨.skip2, .skipRom, (measureNext_present hp).2 hm, by simp [hp]⟩)))
    · have hp : s.presence = false := by simpa using hp
      exact .inr (.inl ⟨.inr rfl, hp, measureNext_absent (.inr hm) hp⟩)

/-- Starting a slot (R29): its first segment is loaded, and the line is driven low. -/
theorem startPrim_slot {p : Prim} (b : Bool) (hp : p = .reset ∨ p = .wbit ∨ p = .rbit) (s : State) :
    ∃ r, segTable p b 0 = some r ∧ r.level = .L
      ∧ startPrim p b s
        = { s with
            prim := p, wb := b, seg := 0, timer := BitVec.ofNat 20 r.dur, owOut := .L
            trace := s.trace ++ [.drv .L] } := by
  rcases hp with rfl | rfl | rfl <;> exact ⟨_, rfl, rfl, rfl⟩

/-- Starting the conversion wait (R29, R153): the line stays as it is, and nothing is recorded. -/
theorem startPrim_wait (s : State) :
    startPrim .wait false s = { s with prim := .wait, wb := false, seg := 0, timer := BitVec.ofNat 20 tConv } := rfl

/-- Everything an acceptance can do (R28). -/
theorem acceptCmd_cases {start : State → State} {s t : State} (h : acceptCmd start s = .next t) :
    (s.busy = true ∧ t = s) ∨ (s.busy = false ∧ t = start { flush s with done := false }) := by
  unfold acceptCmd at h
  split at h
  · rename_i hb
    exact .inl ⟨hb, (by simpa using h.symm)⟩
  · rename_i hb
    exact .inr ⟨by simpa using hb, (by simpa using h.symm)⟩

/-- The state once a word has been taken, before the command's own part (R28). -/
def wordTaken (s : State) : State := { flush s with done := false }

/-- What `exec` can do (R28): a busy block takes no word; an idle one begins the command. -/
theorem exec_cases {i : Instr} {s t : State} (h : exec i s = .next t) :
    (s.busy = true ∧ t = s)
      ∨ (s.busy = false
        ∧ ((i = .reset ∧ t = startPrim .reset false (beginCmd .reset 0 (wordTaken s)))
          ∨ (∃ b, i = .wbit b ∧ t = startPrim .wbit b (beginCmd .wbit (bitByte b) (wordTaken s)))
          ∨ (opOf i = .wbyte ∧ t = startWByte (argOf i) (beginCmd .wbyte (argOf i) (wordTaken s)))
          ∨ (i = .rbit ∧ t = startPrim .rbit false { beginCmd .rbit 0 (wordTaken s) with shreg := 0 })
          ∨ (i = .rbyte ∧ t = startRByte (beginCmd .rbyte 0 (wordTaken s)))
          ∨ (i = .measure
              ∧ t = startPrim .reset false
                  { clearResults (beginCmd .measure 0 (wordTaken s)) with mstep := .reset1 }))) := by
  cases hb : s.busy
  · refine .inr ⟨rfl, ?_⟩
    cases i with
    | reset =>
      rw [exec, execReset, acceptCmd_of_idle _ hb] at h
      exact .inl ⟨rfl, (Host.Outcome.next.inj h).symm⟩
    | wbit b =>
      rw [exec, execWbit, acceptCmd_of_idle _ hb] at h
      exact .inr (.inl ⟨b, rfl, (Host.Outcome.next.inj h).symm⟩)
    | wbyte d =>
      rw [exec, execWbyte, acceptWByte, acceptCmd_of_idle _ hb] at h
      exact .inr (.inr (.inl ⟨rfl, (Host.Outcome.next.inj h).symm⟩))
    | rbit =>
      rw [exec, execRbit, acceptCmd_of_idle _ hb] at h
      exact .inr (.inr (.inr (.inl ⟨rfl, (Host.Outcome.next.inj h).symm⟩)))
    | rbyte =>
      rw [exec, execRbyte, acceptCmd_of_idle _ hb] at h
      exact .inr (.inr (.inr (.inr (.inl ⟨rfl, (Host.Outcome.next.inj h).symm⟩))))
    | measure =>
      rw [exec, execMeasure, acceptCmd_of_idle _ hb] at h
      exact .inr (.inr (.inr (.inr (.inr ⟨rfl, (Host.Outcome.next.inj h).symm⟩))))
    | skipRom =>
      rw [exec, execSkipRom, acceptWByte, acceptCmd_of_idle _ hb] at h
      exact .inr (.inr (.inl ⟨rfl, (Host.Outcome.next.inj h).symm⟩))
    | convertT =>
      rw [exec, execConvertT, acceptWByte, acceptCmd_of_idle _ hb] at h
      exact .inr (.inr (.inl ⟨rfl, (Host.Outcome.next.inj h).symm⟩))
    | readSp =>
      rw [exec, execReadSp, acceptWByte, acceptCmd_of_idle _ hb] at h
      exact .inr (.inr (.inl ⟨rfl, (Host.Outcome.next.inj h).symm⟩))
  · refine .inl ⟨rfl, ?_⟩
    have hbusy : exec i s = .next s := by
      cases i <;> exact acceptCmd_of_busy (fun u => _) hb
    exact Host.Outcome.next.inj (h.symm.trans hbusy)

end Sys2Proof.Machine
end

