-- ==== Sys2Proof/Laws/PerInstr.lean ====
section
/-! SUPPORT. Per instruction: its word selects the row of the opcode map (spec/30_encoding.md R93) that its operand form
names, and no other. -/

namespace Sys2Proof.Laws.RowMatch

/-- The row of the opcode map each instruction's word belongs to. -/
def rowOf : Instr → OpRow
  | .reset => ⟨0x1, .z, 0x100, 0xFFF⟩
  | .wbit _ => ⟨0x2, .b1, 0x200, 0xFFE⟩
  | .wbyte _ => ⟨0x3, .b8, 0x300, 0xF00⟩
  | .rbit => ⟨0x4, .z, 0x400, 0xFFF⟩
  | .rbyte => ⟨0x5, .z, 0x500, 0xFFF⟩
  | .measure => ⟨0x6, .z, 0x600, 0xFFF⟩
  | .skipRom => ⟨0x3, .b8, 0x300, 0xF00⟩
  | .convertT => ⟨0x3, .b8, 0x300, 0xF00⟩
  | .readSp => ⟨0x3, .b8, 0x300, 0xF00⟩

/-- The rows that the word of `i` selects are exactly the one row `i` belongs to. -/
def Statement (i : Instr) : Prop := opcodeMap.filter (fun r => rowSelected r (encodeWord i)) = [rowOf i]

theorem reset : Statement .reset := by unfold Statement; decide
theorem wbit (b : Bool) : Statement (.wbit b) := by unfold Statement; cases b <;> decide
theorem wbyte (d : Byte) : Statement (.wbyte d) := by unfold Statement; revert d; decide
theorem rbit : Statement .rbit := by unfold Statement; decide
theorem rbyte : Statement .rbyte := by unfold Statement; decide
theorem measure : Statement .measure := by unfold Statement; decide
theorem skipRom : Statement .skipRom := by unfold Statement; decide
theorem convertT : Statement .convertT := by unfold Statement; decide
theorem readSp : Statement .readSp := by unfold Statement; decide

end Sys2Proof.Laws.RowMatch
end

