-- ==== Sys2Proof/Tests/Slice0.lean ====
section
/-! SUPPORT. Tests, with expected values from spec/95_test_vectors.md (named at each group) or worked by hand from the
rules, and a witness for the hypotheses of every statement that has any. -/

namespace Sys2Proof.Tests

open Sys2Proof.Machine

/-! ## Helpers -/

/-- A field of the next state of an outcome. -/
def fieldAfter {α : Type} (f : State → α) : Host.Outcome State Fault Refusal → Option α
  | .next s => some (f s)
  | .fault _ | .refused _ => none

/-- The next state of an outcome, the reset state where there is none. -/
def stateAfter : Host.Outcome State Fault Refusal → State
  | .next s => s
  | .fault _ | .refused _ => State.reset

/-- After reset, before an environment. -/
def onLine (e : LineEnv) : State := { State.reset with env := e }

/-- After reset, a word on the port. -/
def onPort (w : CmdWord) : State := { State.reset with host := [⟨false, true, .word w, 0, false⟩] }

/-! ## Well-formedness: an ill-formed term for each check (R91, R93, R95, R103) -/

theorem test_format_z_refuses : formatAdmits .z 0x01 = false ∧ formatAdmits .z 0x00 = true := by decide
theorem test_format_b1_refuses : formatAdmits .b1 0x02 = false ∧ formatAdmits .b1 0x01 = true := by decide
theorem test_format_b8_admits : formatAdmits .b8 0xFF = true := by decide
theorem test_word_ill_formed :
    (wordWellFormed 0x000 || wordWellFormed 0x101 || wordWellFormed 0x202 || wordWellFormed 0x700
      || wordWellFormed 0xFFF) = false := by decide
theorem test_asm_ill_formed :
    (asmWellFormed (.wbit 2) || asmWellFormed (.wbyte 256) || asmWellFormed (.word 4096)) = false := by decide
theorem test_asm_refused : assemble (.wbyte 256) = none ∧ assemble (.wbyte 204) = some (.word 0x3CC) := by decide

/-! ## Decoding: each constructor's word bit by bit from R93, R100 (95_test_vectors.md 2.1) -/

theorem test_decode_reset : decodeWord 0b000100000000 = .ok .reset := by decide
theorem test_decode_wbit :
    decodeWord 0b001000000000 = .ok (.wbit false) ∧ decodeWord 0b001000000001 = .ok (.wbit true) := by decide
theorem test_decode_wbyte : decodeWord 0b001110000001 = .ok (.wbyte 0x81) := by decide
theorem test_decode_rbit : decodeWord 0b010000000000 = .ok .rbit := by decide
theorem test_decode_rbyte : decodeWord 0b010100000000 = .ok .rbyte := by decide
theorem test_decode_measure : decodeWord 0b011000000000 = .ok .measure := by decide
theorem test_decode_skipRom : decodeLineByte 0b11001100 = .ok .skipRom := by decide
theorem test_decode_convertT : decodeLineByte 0b01000100 = .ok .convertT := by decide
theorem test_decode_readSp : decodeLineByte 0b10111110 = .ok .readSp := by decide
theorem test_decode_illegal :
    decodeWord 0x0CC = .error .illegalOpcode ∧ decodeWord 0x1FF = .error .argNotZero
      ∧ decodeWord 0x203 = .error .argNotBit ∧ decodeWord 0x580 = .error .argNotZero := by decide
theorem test_table_rows :
    decodeTableWord 16 0x100 = some .reset ∧ decodeTableWord 16 0x3CC = some (.wbyte 0xCC)
      ∧ decodeTableWord 8 0xCC = some .skipRom ∧ decodeTableWord 8 0x44 = some .convertT
      ∧ decodeTableWord 8 0xBE = some .readSp ∧ decodeTableWord 8 0x45 = none
      ∧ decodeTableWord 16 0x1100 = none := by decide

/-! ## One step: acceptance (R28, R29) and the placing of a word -/

theorem test_fetch_word_runs :
    fieldAfter State.op (step (State.reset.withFetchWord 16 0x600)) = some .measure
      ∧ fieldAfter State.arg (step (State.reset.withFetchWord 8 0xBE)) = some 0xBE := by decide
theorem test_accept_reset :
    fieldAfter (fun s => (s.prim, s.timer, s.owOut, s.busy)) (exec .reset State.reset)
      = some (.reset, 500, .L, true) := by decide
theorem test_accept_wbit :
    fieldAfter (fun s => (s.prim, s.wb, s.timer, s.arg)) (exec (.wbit false) State.reset)
      = some (.wbit, false, 60, 0) := by decide
theorem test_accept_wbyte :
    fieldAfter (fun s => (s.shreg, s.wb, s.timer, s.byteMode)) (exec (.wbyte 0xA5) State.reset)
      = some (0xA5, true, 10, .writing) := by decide
theorem test_accept_rbit :
    fieldAfter (fun s => (s.shreg, s.timer, s.prim)) (exec .rbit { State.reset with shreg := 0xFF })
      = some (0, 2, .rbit) := by decide
theorem test_accept_rbyte :
    fieldAfter (fun s => (s.shreg, s.byteMode, s.bitIdx)) (exec .rbyte { State.reset with shreg := 0xFF })
      = some (0, .reading, 0) := by decide
theorem test_accept_measure :
    fieldAfter (fun s => (s.mstep, s.valid, s.spLsb, s.temp10))
        (exec .measure { State.reset with valid := true, spLsb := 0x91, temp10 := 251 })
      = some (.reset1, false, 0, 0) := by decide
theorem test_accept_skipRom :
    fieldAfter (fun s => (s.op, s.arg, s.wb)) (exec .skipRom State.reset) = some (.wbyte, 0xCC, false) := by decide
theorem test_accept_convertT :
    fieldAfter (fun s => (s.op, s.arg, s.wb)) (exec .convertT State.reset) = some (.wbyte, 0x44, false) := by decide
theorem test_accept_readSp :
    fieldAfter (fun s => (s.op, s.arg, s.wb)) (exec .readSp State.reset) = some (.wbyte, 0xBE, false) := by decide
theorem test_busy_takes_nothing :
    fieldAfter (fun s => (s.op, s.timer)) (step { stateAfter (exec .rbit State.reset) with
      host := [⟨false, true, .word 0x600, 0, false⟩] }) = some (.rbit, 1) := by decide

/-! ## One step: ticks (95_test_vectors.md 2.2, the tick-level view of `RBIT`) -/

/-- `RBIT` one tick before its sample, t = 13. -/
def rbitAt13 : State :=
  { onLine (.script [.H]) with
    op := .rbit, prim := .rbit, seg := 1, timer := 1, busy := true, cur := 11, trace := [.drv .L, .dly 2, .drv .H] }

/-- `RBIT` one tick before its end, t = 63. -/
def rbitAt63 : State :=
  { onLine .absent with
    op := .rbit, prim := .rbit, seg := 2, timer := 1, busy := true, shreg := 1, cur := 49
    trace := [.drv .L, .dly 2, .drv .H, .dly 12, .smp .H], choice := 1 }

/-- `RESET` one tick before its sample, t = 569. -/
def resetAt569 : State :=
  { onLine (.sensor 0x91 0x01) with
    op := .reset, prim := .reset, seg := 1, timer := 1, busy := true, cur := 69, trace := [.drv .L, .dly 500, .drv .H] }

theorem test_rbit_samples :
    fieldAfter (fun s => (s.seg, s.timer, s.shreg, s.owOut)) (step rbitAt13) = some (2, 50, 1, .H) := by decide
theorem test_rbit_ends :
    fieldAfter (fun s => (s.prim, s.busy, s.done, s.data)) (step rbitAt63) = some (.none, false, true, 1)
      ∧ fieldAfter State.trace (step rbitAt63) = some [.drv .L, .dly 2, .drv .H, .dly 12, .smp .H, .dly 50] := by
  decide
theorem test_reset_samples_presence :
    fieldAfter (fun s => (s.presence, s.seg, s.timer)) (step resetAt569) = some (true, 2, 500) := by decide

/-! ## One step: an illegal word, and `rst` (95_test_vectors.md P7, 2.6) -/

theorem test_illegal_word :
    fieldAfter (fun s => (s.errcode, s.done, s.op, s.errInd)) (step (onPort 0x777))
      = some (.illegalCommand, true, .none, false) := by decide
theorem test_rst_in_reset_slot :
    fieldAfter (fun s => (s.owOut, s.busy, s.done, s.trace))
        (step { stateAfter (exec .reset State.reset) with
          timer := 200, cur := 300, host := [⟨true, false, .word 0, 0, false⟩] })
      = some (.H, false, false, [.drv .L, .dly 300, .drv .H]) := by decide

/-! ## Whole commands (95_test_vectors.md 2.2 to 2.4) -/

theorem test_reset_absent : (cmdReset (onLine .absent)).presence = false := by decide
theorem test_wbyte_low_time :
    lowTime .H (writeByteTrace 0xCC) = 280 ∧ lowTime .H (writeByteTrace 0x44) = 380
      ∧ lowTime .H (writeByteTrace 0xBE) = 180 := by decide
theorem test_wbit_leaves_shreg :
    (eightWbits 0xCC { State.reset with shreg := 0x33 }).shreg = 0x33
      ∧ (wbyteExpansion 0xCC { State.reset with shreg := 0x33 }).shreg = 0xCC := by decide
theorem test_rbyte_answers :
    (cmdRbyte (onLine (.script [.H, .L, .L, .L, .H, .L, .L, .H]))).data = 0x91 := by decide
theorem test_status_after_reset : statusWord State.reset = 0x40 := by decide

/-! ## The decoder (95_test_vectors.md 2.5) -/

theorem test_decode_temp_positive :
    decodeTemp .twos16 0x91 0x01 = 251 ∧ decodeTemp .twos16 0xFC 0xFF = -2 ∧ decodeTemp .twos16 0xF4 0xFF = -7 := by
  decide
theorem test_decode_temp_modes :
    decodeTemp .twos16 0x00 0xFF = -160 ∧ decodeTemp .legacy4096 0x00 0xFF = 38240
      ∧ decodeTemp .legacy4096 0x00 0x08 = -1280 ∧ decodeTemp .twos16 0x90 0xC1 = -9990 := by decide
theorem test_format_negative_half : format10 (-5) = ⟨true, 0, 5⟩ ∧ format10 38240 = ⟨false, 3824, 0⟩ := by decide

/-! ## Witnesses: for every statement with hypotheses, a state and operands that meet them -/

/-- A block in the first tick of `RESET`. -/
def busyReset : State := stateAfter (exec .reset State.reset)

/-- A block with a decoded zero reading (95_test_vectors.md S3). -/
def measuredZero : State := { State.reset with valid := true, done := true, op := .measure, presence := true }

/-- A block after a `MEASURE` on an empty line (95_test_vectors.md P4). -/
def measuredAbsent : State :=
  { State.reset with errcode := .notPresent, done := true, op := .measure, temp10 := -9990 }

/-- `MEASURE` on an empty line one tick before its end, t = 1069. -/
def measureAt1069 : State :=
  { onLine .absent with
    op := .measure, mstep := .reset1, prim := .reset, seg := 2, timer := 1, busy := true, cur := 499
    trace := [.drv .L, .dly 500, .drv .H, .dly 70, .smp .H], choice := 1 }

theorem blockInv_busyReset : BlockInv busyReset := by
  refine ⟨⟨⟨_, rfl, rfl, by decide, by decide⟩, rfl, ⟨rfl, rfl, rfl⟩, ?_, rfl, rfl⟩, ?_, ?_⟩
  · intro h; cases h
  · intro h; cases h
  · intro h; cases h

theorem blockInv_measuredZero : BlockInv measuredZero := by
  refine ⟨⟨rfl, rfl, rfl, rfl, rfl, rfl, rfl, rfl⟩, fun _ => by decide, ?_⟩
  intro h; cases h

theorem blockInv_measuredAbsent : BlockInv measuredAbsent := by
  refine ⟨⟨rfl, rfl, rfl, rfl, rfl, rfl, rfl, rfl⟩, ?_, fun _ => by decide⟩
  intro h; cases h

theorem blockInv_measureAt1069 : BlockInv measureAt1069 := by
  refine ⟨⟨⟨_, rfl, rfl, by decide, by decide⟩, rfl, ⟨rfl, rfl⟩, fun _ => by decide, rfl, rfl⟩, ?_, ?_⟩
  · intro h; cases h
  · intro h; cases h

theorem witness_DecodedWordIsItsEncoding : decodeWord 0x3FF = .ok (.wbyte 0xFF) := by decide
theorem witness_IllegalWordsSelectNoRow :
    (∃ e, decodeWord 0x202 = .error e) ∧ wordWellFormed 0x201 = true
      ∧ rowSelected ⟨0x2, .b1, 0x200, 0xFFE⟩ 0x201 = true := ⟨⟨.argNotBit, by decide⟩, by decide, by decide⟩
theorem witness_StepRunsTheDecodedInstruction :
    (onPort 0x100).host = [⟨false, true, .word 0x100, 0, false⟩] ∧ (onPort 0x100).busy = false
      ∧ decodeCmd (.word 0x100) = .ok .reset := by decide
theorem witness_AcceptStartsTheCommand :
    State.reset.busy = false ∧ opOf .skipRom = .wbyte ∧ opOf .reset = .reset ∧ Instr.rbit ≠ .measure := by decide
theorem witness_BusyBlockTakesNoWord :
    busyReset.busy = true ∧ noRstFor 1 [⟨false, true, .word 0x600, 0, false⟩] = true ∧ noRstFor 1 [] = true
      ∧ (fieldAfter State.timer (step busyReset)).isSome = true := by decide
theorem witness_IllegalWordOnlySetsErrcode :
    (onPort 0x700).host = [⟨false, true, .word 0x700, 0, false⟩] ∧ wordWellFormed 0x700 = false
      ∧ (onPort 0x700).busy = false := by decide
theorem witness_ErrorsAreNotSticky :
    measuredAbsent.busy = false ∧ measuredAbsent.errcode = .notPresent ∧ Instr.reset ≠ .measure := by decide
theorem witness_RstClearsEverything :
    (portNow { busyReset with host := [⟨true, false, .word 0, 0, false⟩, ⟨true, false, .word 0, 0, false⟩] }).rst = true
      ∧ busyReset.owOut = .L
      ∧ fieldAfter (fun t => (portNow t).rst)
          (step { busyReset with host := [⟨true, false, .word 0, 0, false⟩, ⟨true, false, .word 0, 0, false⟩] })
        = some true := by decide
theorem witness_IdleTicksOnlyPassTime :
    State.reset.busy = false ∧ 0 < 3
      ∧ (∀ p ∈ List.take 3 [⟨false, false, .word 0x600, 5, true⟩, PortIn.quiet], p.rst = false ∧ p.cmdValid = false)
      ∧ ∀ p ∈ List.take 3 State.reset.host, p.rst = false ∧ p.cmdValid = false := by decide
theorem witness_TimerCountsTheSegment :
    busyReset.busy = true ∧ 0 < 499 ∧ 499 < busyReset.timer.toNat ∧ noRstFor 499 busyReset.host = true :=
  ⟨rfl, by decide, by decide, noRstFor_nil 499⟩
theorem witness_ResetRuns : State.reset.busy = false ∧ noRstFor 1070 State.reset.host = true :=
  ⟨rfl, noRstFor_nil _⟩
theorem witness_WbitRuns : State.reset.busy = false ∧ noRstFor 65 State.reset.host = true := ⟨rfl, noRstFor_nil _⟩
theorem witness_RbitRuns : State.reset.busy = false ∧ noRstFor 64 State.reset.host = true := ⟨rfl, noRstFor_nil _⟩
theorem witness_WbyteRuns : State.reset.busy = false ∧ noRstFor 520 State.reset.host = true := ⟨rfl, noRstFor_nil _⟩
theorem witness_RbyteRuns : State.reset.busy = false ∧ noRstFor 512 State.reset.host = true := ⟨rfl, noRstFor_nil _⟩
theorem witness_LineCommandsSendTheirSlots : State.reset.busy = false ∧ noRstFor 520 State.reset.host = true :=
  ⟨rfl, noRstFor_nil _⟩
theorem witness_MeasureSucceeds :
    (onLine (.sensor 0x91 0x01)).busy = false ∧ noRstFor 755244 (onLine (.sensor 0x91 0x01)).host = true
      ∧ resetAnswer (.sensor 0x91 0x01) [] 0 = .L
      ∧ resetAnswer (.sensor 0x91 0x01) (measureTrace1 [] .L) 1 = .L :=
  ⟨rfl, noRstFor_nil _, by decide, by decide⟩
theorem witness_MeasureFirstExit :
    (onLine .absent).busy = false ∧ noRstFor 1070 (onLine .absent).host = true ∧ resetAnswer .absent [] 0 = .H :=
  ⟨rfl, noRstFor_nil _, by decide⟩
theorem witness_MeasureSecondExit :
    (onLine (.sensorGone 2 0x91 0x01)).busy = false ∧ noRstFor 753180 (onLine (.sensorGone 2 0x91 0x01)).host = true
      ∧ resetAnswer (.sensorGone 2 0x91 0x01) [] 0 = .L
      ∧ resetAnswer (.sensorGone 2 0x91 0x01) (measureTrace1 [] .L) 1 = .H :=
  ⟨rfl, noRstFor_nil _, by decide, by decide⟩
theorem witness_TicksAgreeWithTheCommandRules :
    State.reset.busy = false ∧ noRstFor (cmdDuration .measure State.reset) State.reset.host = true :=
  ⟨rfl, noRstFor_nil _⟩
theorem witness_ProgramsRunCommandByCommand :
    State.reset.busy = false
      ∧ { State.reset with host := programPorts [⟨0, .word 0x100⟩, ⟨3, .word 0x777⟩] }.host
        = programPorts [⟨0, .word 0x100⟩, ⟨3, .word 0x777⟩] := ⟨rfl, rfl⟩
theorem witness_ByteCommandsEqualEightSlots : 0 < 8 ∧ 7 < 8 := by decide
theorem witness_MeasureEqualsItsExpansion :
    (cmdReset (onLine (.sensor 0x91 0x01))).presence = true
      ∧ (cmdReset (gapOf 750000 (cmdWbyte 0x44 (cmdWbyte 0xCC (cmdReset (onLine (.sensor 0x91 0x01))))))).presence
        = true := by decide
theorem witness_AbsentLineReadsOnes : (onLine .absent).env = .absent := rfl
theorem witness_SensorStubIsMeasured :
    (onLine (.sensor 0x00 0xFF)).busy = false ∧ (onLine (.sensor 0x00 0xFF)).env = .sensor 0x00 0xFF
      ∧ noRstFor 755244 (onLine (.sensor 0x00 0xFF)).host = true := ⟨rfl, rfl, noRstFor_nil _⟩
theorem witness_MeasureIsIdempotent : (onLine (.sensor 0x5E 0xFF)).env = .sensor 0x5E 0xFF := rfl
theorem witness_LoopbackRoundTrip :
    (onLine .loopback).env = .loopback ∧ loopbackQueue [] (fullTrace (onLine .loopback)) = [] := by decide
theorem witness_StepKeepsInv :
    BlockInv busyReset ∧ (∃ t, step busyReset = .next t) ∧ BlockInv measureAt1069 ∧ ∃ t, step measureAt1069 = .next t :=
  ⟨blockInv_busyReset, ⟨_, rfl⟩, blockInv_measureAt1069, ⟨_, rfl⟩⟩
theorem witness_StepNeverStops : BlockInv busyReset := blockInv_busyReset
theorem witness_EveryCommandEnds : BlockInv busyReset ∧ busyReset.busy = true ∧ noRstFor 755244 busyReset.host = true :=
  ⟨blockInv_busyReset, rfl, noRstFor_nil _⟩
theorem witness_OnlyPresenceSampleWritesPresence :
    (portNow resetAt569).rst = false ∧ fieldAfter State.presence (step resetAt569) = some true
      ∧ resetAt569.presence = false := by decide
theorem witness_OnlyReadCommandsWriteData :
    (portNow rbitAt63).rst = false ∧ fieldAfter State.data (step rbitAt63) = some 1 ∧ rbitAt63.data = 0 := by decide
theorem witness_OnlyMeasureWritesResults :
    BlockInv { measuredZero with host := [⟨false, true, .word 0x600, 0, false⟩] }
      ∧ fieldAfter State.valid (step { measuredZero with host := [⟨false, true, .word 0x600, 0, false⟩] }) = some false
      ∧ BlockInv measureAt1069 ∧ measureAt1069.temp10 = 0
      ∧ fieldAfter State.temp10 (step measureAt1069) = some (-9990) :=
  ⟨blockInv_measuredZero, by decide, blockInv_measureAt1069, by decide, by decide⟩
theorem witness_StrapNeverChanges : ∃ t, step { State.reset with decodeMode := .legacy4096 } = .next t := ⟨_, rfl⟩
theorem witness_ErrIndIsOneTick :
    BlockInv measureAt1069 ∧ (portNow measureAt1069).rst = false ∧ measureAt1069.busy = true
      ∧ fieldAfter State.errInd (step measureAt1069) = some true
      ∧ BlockInv measuredAbsent ∧ measuredAbsent.busy = false ∧ fetch measuredAbsent = .nothing :=
  ⟨blockInv_measureAt1069, by decide, rfl, by decide, blockInv_measuredAbsent, rfl, by decide⟩
theorem witness_ErrIndIsOneTick_word :
    BlockInv { measuredAbsent with host := [⟨false, true, .word 0x600, 0, false⟩], errInd := true }
      ∧ fetch { measuredAbsent with host := [⟨false, true, .word 0x600, 0, false⟩], errInd := true } ≠ .nothing
      ∧ fieldAfter State.errInd
          (step { measuredAbsent with host := [⟨false, true, .word 0x600, 0, false⟩], errInd := true }) = some true
      ∧ fetch { measuredAbsent with host := [⟨false, true, .word 0x777, 0, false⟩], errInd := true } ≠ .nothing :=
  ⟨blockInv_measuredAbsent, by decide, by decide, by decide⟩
theorem witness_TraceOnlyGrows : ∃ t, step busyReset = .next t := ⟨_, rfl⟩

/-- `MEASURE` in the segment that ends with its presence sample. -/
def measureAt569 : State :=
  { onLine .absent with
    op := .measure, mstep := .reset1, prim := .reset, seg := 1, timer := 1, busy := true, cur := 69
    trace := [.drv .L, .dly 500, .drv .H] }

theorem witness_SamplesAreTheEnvironments :
    BlockInv measureAt569 ∧ measureAt569.busy = true
      ∧ segTable measureAt569.prim measureAt569.wb measureAt569.seg = some ⟨.H, 70, .presence, false⟩
      ∧ Smp.presence ≠ .none := by
  refine ⟨⟨⟨⟨_, rfl, rfl, by decide, by decide⟩, rfl, ⟨rfl, rfl⟩, fun _ => by decide, rfl, rfl⟩, ?_, ?_⟩, rfl, rfl, by decide⟩
  · intro h; cases h
  · intro h; cases h

theorem witness_ReadMapShowsTheRegisters :
    (∃ t, step { busyReset with host := [⟨false, false, .word 0, 0, true⟩] } = .next t)
      ∧ (∃ t, step { busyReset with host := [⟨false, false, .word 0, 0, false⟩] } = .next t)
      ∧ (∃ t, step { busyReset with host := [⟨true, false, .word 0, 0, true⟩] } = .next t)
      ∧ ∃ t, step { State.reset with host := [⟨false, true, .word 0x600, 3, true⟩] } = .next t :=
  ⟨⟨_, rfl⟩, ⟨_, rfl⟩, ⟨_, rfl⟩, ⟨_, rfl⟩⟩
theorem witness_AssembleIsTheSum : assembleBytes 0x91 0x91 = assembleBytes 0x91 0x91 := rfl
theorem witness_RawPredicates :
    inSensorRange 0x07D0 = true ∧ inSensorRange 0xFC90 = true ∧ inSensorRange 0x07D1 = false
      ∧ inSensorRange 0xFC8F = false ∧ signExtOk 0x07FF = true ∧ signExtOk 0x0800 = false
      ∧ signExtOk 0xF800 = true := by decide
theorem witness_DecodeModesRelate :
    (0x07FF : BitVec 16).toNat ≤ 0x07FF ∧ 0x0800 ≤ (0x0FFF : BitVec 16).toNat ∧ (0x0FFF : BitVec 16).toNat ≤ 0x0FFF
      ∧ 0xF800 ≤ (0xF800 : BitVec 16).toNat ∧ signExtOk 0x07FF = true ∧ (0x07FF : BitVec 16).getLsbD 15 = false := by
  decide
theorem witness_RoundIsNearestTiesUp : (4 : Int) % 8 = 4 ∧ ¬(401 : Int) % 8 = 4 ∧ round10 401 = 251 := by decide
theorem witness_RoundProperties : (-4 : Int) ≤ 4 ∧ round10 (-4) = -2 ∧ round10 4 = 3 := by decide
theorem witness_DecoderRanges : inSensorRange 0x07D0 = true ∧ inSensorRange 0xFC90 = true := by decide
theorem witness_SentinelWrapper :
    BlockInv measuredZero ∧ measuredZero.valid = true ∧ BlockInv measuredAbsent ∧ measuredAbsent.errcode = .notPresent :=
  ⟨blockInv_measuredZero, rfl, blockInv_measuredAbsent, rfl⟩

end Sys2Proof.Tests
end

section
/-! SUPPORT. Proofs: the segment table's facts, the invariant `BlockInv` taken apart, and that every operation of a step
gives it (spec/10_state.md R25 to R33, R41). -/

namespace Sys2Proof.Machine

/-! ## The segment table (R120) -/

/-- Every row of the segment table lasts at least 1 µs and fits `TIMER`. -/
theorem segTable_dur {p : Prim} {b : Bool} {sg : Fin 3} {r : Segment} (h : segTable p b sg = some r) :
    1 ≤ r.dur ∧ r.dur < 2 ^ 20 := by
  unfold segTable at h
  split at h <;> cases h <;> cases b <;> decide

/-- Every slot ends with the line released, and the wait holds it released (R128). -/
theorem segTable_level_of_last {p : Prim} {b : Bool} {sg : Fin 3} {r : Segment} (h : segTable p b sg = some r)
    (hl : r.last = true) : r.level = .H := by
  unfold segTable at h
  split at h <;> cases h <;> simp_all

/-- A segment that is not the last of its slot has a row after it. -/
theorem segTable_next_of_not_last {p : Prim} {b : Bool} {sg : Fin 3} {r : Segment} (h : segTable p b sg = some r)
    (hl : r.last = false) : ∃ r2, segTable p b (sg + 1) = some r2 := by
  unfold segTable at h
  split at h <;> cases h <;> simp_all [segTable]

/-- Only read slots sample a bit. -/
theorem segTable_prim_of_bit {p : Prim} {b : Bool} {sg : Fin 3} {r : Segment} (h : segTable p b sg = some r)
    (hk : r.smp = .bit) : p = .rbit := by
  unfold segTable at h
  split at h <;> cases h <;> simp_all

/-- Only segment 1 of a reset slot samples the presence. -/
theorem segTable_prim_of_presence {p : Prim} {b : Bool} {sg : Fin 3} {r : Segment} (h : segTable p b sg = some r)
    (hk : r.smp = .presence) : p = .reset ∧ sg = 1 := by
  unfold segTable at h
  split at h <;> cases h <;> simp_all

/-- `TIMER` holds the duration it is loaded with. -/
theorem timer_toNat_of_row {p : Prim} {b : Bool} {sg : Fin 3} {r : Segment} (h : segTable p b sg = some r) :
    (BitVec.ofNat 20 r.dur).toNat = r.dur := by
  rw [BitVec.toNat_ofNat, Nat.mod_eq_of_lt (segTable_dur h).2]

/-! ## The decoder fits its registers -/

theorem signExt_bounds (mode : DecodeMode) (raw : BitVec 16) :
    -32768 ≤ signExt mode raw ∧ signExt mode raw ≤ 61439 := by
  have hlt := raw.isLt
  cases mode with
  | twos16 =>
    have h := raw.toInt_eq_toNat_cond
    simp only [signExt]
    split at h <;> omega
  | legacy4096 =>
    simp only [signExt]
    split <;> omega

theorem signExt_toInt_ofInt (mode : DecodeMode) (raw : BitVec 16) :
    (BitVec.ofInt 32 (signExt mode raw)).toInt = signExt mode raw := by
  obtain ⟨hlo, hhi⟩ := signExt_bounds mode raw
  rw [BitVec.toInt_ofInt, Int.bmod_def]
  split <;> omega

/-- The decoded registers agree with `DECODE` (R182). -/
theorem resultsDecoded_decodeResult (s : State) : ResultsDecoded (decodeResult s) := by
  intro _
  refine ⟨rfl, ?_⟩
  show BitVec.ofInt 32 (round10 (BitVec.ofInt 32 (signExt s.decodeMode (rawOf s))).toInt) = _
  rw [signExt_toInt_ofInt]
  rfl

/-! ## The invariant, taken apart -/

/-- The handshake and the results while a command runs: what no start of a primitive touches. -/
structure Underway (s : State) : Prop where
  busy : s.busy = true
  done : s.done = false
  errcode : s.errcode = .none
  cleared : ResultsCleared s
  decoded : ResultsDecoded s

/-- A command runs a primitive of its own: the invariant of a busy block but for the segment being timed. -/
structure Running (s : State) : Prop extends Underway s where
  slot : SlotOfByte s
  command : RunsItsCommand s

/-- What `Underway` says nothing of may change: the position, the line, the trace. -/
theorem Underway.elsewhere {s : State} (h : Underway s) (d : Byte) (p : Prim) (b : Bool) (sg : Fin 3) (bm : ByteMode)
    (i : Fin 8) (tm : BitVec 20) (l : Level) (tr : List Event) :
    Underway { s with
      shreg := d, prim := p, wb := b, seg := sg, byteMode := bm, bitIdx := i, timer := tm, owOut := l, trace := tr } :=
  ⟨h.busy, h.done, h.errcode, h.cleared, h.decoded⟩

/-- What `Running` says nothing of may change: the segment and its timing, the line, the sample, the trace. -/
theorem Running.elsewhere {s : State} (h : Running s) (sg : Fin 3) (tm : BitVec 20) (l : Level) (pr ei : Bool)
    (ch : Nat) (tr : List Event) (c : Nat) :
    Running { s with
      seg := sg, timer := tm, owOut := l, presence := pr, errInd := ei, choice := ch, trace := tr, cur := c } :=
  ⟨⟨h.busy, h.done, h.errcode, h.cleared, h.decoded⟩, h.slot, h.command⟩

theorem blockInv_of_running {s : State} (h : Running s) (ht : TimedSegment s) : BlockInv s := by
  refine ⟨?_, h.decoded, fun he => ?_⟩
  · rw [if_pos h.busy]
    exact ⟨ht, h.slot, h.command, h.cleared, h.done, h.errcode⟩
  · rw [h.errcode] at he
    cases he

theorem blockInv_of_idle {s : State} (hb : s.busy = false) (hp : IdlePosition s) (hd : ResultsDecoded s)
    (hn : NotPresentRecorded s) : BlockInv s :=
  ⟨by rw [if_neg (by simp [hb])]; exact hp, hd, hn⟩

theorem BlockInv.running {s : State} (h : BlockInv s) (hb : s.busy = true) : Running s ∧ TimedSegment s := by
  obtain ⟨hpos, hd, -⟩ := h
  rw [if_pos hb] at hpos
  obtain ⟨ht, hslot, hcmd, hcl, hdone, he⟩ := hpos
  exact ⟨⟨⟨hb, hdone, he, hcl, hd⟩, hslot, hcmd⟩, ht⟩

theorem BlockInv.idle {s : State} (h : BlockInv s) (hb : s.busy = false) :
    IdlePosition s ∧ ResultsDecoded s ∧ NotPresentRecorded s := by
  obtain ⟨hpos, hrest⟩ := h
  rw [if_neg (by simp [hb])] at hpos
  exact ⟨hpos, hrest⟩

/-- The invariant says nothing of the host, the trace and `err_ind`. -/
theorem blockInv_hostMoves {s : State} (h : BlockInv s) : BlockInv (hostMoves s) := by
  unfold hostMoves
  split <;> exact h

theorem blockInv_passTick {s : State} (h : BlockInv s) : BlockInv (passTick s) := h

/-- A running command other than `MEASURE` stands at step 0 of `MSTEP` (R28). -/
theorem Running.mstep_eq_idle {s : State} (h : Running s) (hop : s.op ≠ .measure) : s.mstep = .idle := by
  have hc := h.command
  unfold RunsItsCommand at hc
  cases ho : s.op <;> simp only [ho] at hc
  case measure => exact absurd ho hop
  all_goals exact hc.1

/-- A running command at a step of `MSTEP` other than 0 is a `MEASURE`. -/
theorem Running.op_measure {s : State} (h : Running s) (hm : s.mstep ≠ .idle) : s.op = .measure := by
  by_contra hop
  exact hm (h.mstep_eq_idle hop)

/-! ## A tick keeps what a running command needs -/

theorem Running.passTick_flush {s : State} (h : Running s) : Running (flush (passTick s)) := by
  unfold flush
  split <;> exact h.elsewhere ..

/-- A read slot may change `SHREG`: only a byte being written must keep it. -/
theorem Running.shreg_of_rbit {s : State} (h : Running s) (hp : s.prim = .rbit) (d : Byte) :
    Running { s with shreg := d } := by
  have hm : s.byteMode ≠ .writing := by
    intro hm
    have hslot := h.slot
    simp [SlotOfByte, hm, hp] at hslot
  refine ⟨h.toUnderway.elsewhere .., ?_, ?_⟩
  · have hslot := h.slot
    unfold SlotOfByte at hslot ⊢
    split at hslot <;> simp_all
  · have hcmd := h.command
    unfold RunsItsCommand at hcmd ⊢
    split at hcmd
    case h_7 => split at hcmd <;> simp_all
    all_goals simp_all

/-- The sample at the end of a segment of the table keeps the command running. -/
theorem Running.sampleFor {s : State} {k : Smp} (h : Running s) (hk : k = .bit → s.prim = .rbit) :
    Running (sampleFor k s) := by
  cases k with
  | none => exact h
  | presence => exact h.elsewhere ..
  | bit => exact (h.shreg_of_rbit (hk rfl) (sampleBit s.bitIdx.val s).shreg).elsewhere ..

/-- The next segment of a slot is timed from its row, at its level (R30). -/
theorem timedSegment_nextSegment {r r2 : Segment} {s : State} (hl : s.owOut = r.level)
    (h2 : segTable s.prim s.wb (s.seg + 1) = some r2) : TimedSegment (nextSegment r r2 s) := by
  have ht : 1 ≤ (BitVec.ofNat 20 r2.dur).toNat ∧ (BitVec.ofNat 20 r2.dur).toNat ≤ r2.dur := by
    rw [timer_toNat_of_row h2]
    exact ⟨(segTable_dur h2).1, le_refl _⟩
  unfold nextSegment
  split
  · rename_i hsame
    exact ⟨r2, h2, hl.trans hsame.symm, ht⟩
  · exact ⟨r2, h2, rfl, ht⟩

theorem Running.nextSegment {s : State} (h : Running s) (r r2 : Segment) : Running (nextSegment r r2 s) := by
  unfold Machine.nextSegment
  split <;> exact h.elsewhere ..

/-! ## Starting a primitive gives the invariant -/

/-- A slot started for its command (R29). -/
theorem blockInv_startPrim {p : Prim} {b : Bool} {s : State} (hp : p = .reset ∨ p = .wbit ∨ p = .rbit)
    (hu : Underway s) (hs : SlotOfByte { s with prim := p, wb := b })
    (hc : RunsItsCommand { s with prim := p, wb := b }) : BlockInv (startPrim p b s) := by
  obtain ⟨r, hr, hl, he⟩ := startPrim_slot b hp s
  rw [he]
  refine blockInv_of_running ⟨hu.elsewhere .., hs, hc⟩ ⟨r, hr, hl.symm, ?_⟩
  rw [timer_toNat_of_row hr]
  exact ⟨(segTable_dur hr).1, le_refl _⟩

/-- The conversion wait started, the line being released (R29, R153). -/
theorem blockInv_startPrim_wait {s : State} (hl : s.owOut = .H) (hu : Underway s) (hop : s.op = .measure)
    (hm : s.mstep = .wait) (hbm : s.byteMode = .none) (hi : s.bitIdx = 0) : BlockInv (startPrim .wait false s) := by
  have hrow : segTable .wait false 0 = some ⟨.H, tConv, .none, true⟩ := rfl
  rw [startPrim_wait]
  refine blockInv_of_running
    ⟨hu.elsewhere .., by simpa [SlotOfByte, hbm] using hi, by simp [RunsItsCommand, hop, hm, hbm]⟩
    ⟨_, hrow, hl, ?_⟩
  rw [timer_toNat_of_row hrow]
  exact ⟨(segTable_dur hrow).1, le_refl _⟩

/-- A byte write started for its command (R29). -/
theorem blockInv_startWByte {d : Byte} {s : State} (hu : Underway s)
    (hc : RunsItsCommand
      { s with shreg := d, byteMode := .writing, prim := .wbit, wb := d.getLsbD 0, bitIdx := 0 }) :
    BlockInv (startWByte d s) :=
  blockInv_startPrim (.inr (.inl rfl)) (hu.elsewhere ..) ⟨rfl, rfl⟩ hc

/-- A byte read started for its command (R29). -/
theorem blockInv_startRByte {s : State} (hu : Underway s)
    (hc : RunsItsCommand { s with shreg := 0, byteMode := .reading, prim := .rbit, wb := false, bitIdx := 0 }) :
    BlockInv (startRByte s) :=
  blockInv_startPrim (.inr (.inr rfl)) (hu.elsewhere ..) rfl hc

/-! ## Ending a command gives the invariant -/

/-- `Finish` with the line released (R33, R128). -/
theorem blockInv_finish {s : State} (hl : s.owOut = .H) (hd : ResultsDecoded s) (hn : NotPresentRecorded s) :
    BlockInv (finish s) :=
  blockInv_of_idle rfl ⟨rfl, rfl, rfl, rfl, rfl, rfl, rfl, hl⟩ hd hn

/-- `Fail` in a `MEASURE` before its first byte is read (R192). -/
theorem blockInv_takeError_notPresent {s : State} (hl : s.owOut = .H) (hop : s.op = .measure) (hcl : ResultsCleared s)
    (hm : s.mstep ≠ .byteMsb) (hp : s.presence = false) : BlockInv (takeError .notPresent s) := by
  obtain ⟨hv, ht16, -, hmsb, hlsb⟩ := hcl hop
  refine blockInv_finish hl (fun h => ?_) fun _ => ⟨hop, rfl, hv, hp, hlsb.resolve_left hm, hmsb, ht16⟩
  exact absurd (hv.symm.trans h) (by decide)

/-! ## `MeasureNext`, `PrimDone` -/

/-- The next step of a `MEASURE` keeps the results as they are, cleared. -/
theorem Running.underway_step {s : State} (h : Running s) (hm : s.mstep ≠ .byteMsb) (m : MStep) :
    Underway { s with byteMode := .none, bitIdx := 0, mstep := m } := by
  refine ⟨h.busy, h.done, h.errcode, fun hop => ?_, h.decoded⟩
  obtain ⟨hv, ht16, htemp, hmsb, hlsb⟩ := h.cleared hop
  exact ⟨hv, ht16, htemp, hmsb, .inr (hlsb.resolve_left hm)⟩

/-- `MeasureNext` from the end of a primitive, the line released (R32). -/
theorem blockInv_measureNext {s : State} (h : Running s) (hl : s.owOut = .H) :
    BlockInv (measureNext { s with byteMode := .none, bitIdx := 0 }) := by
  rcases measureNext_cases { s with byteMode := .none, bitIdx := 0 } with
    ⟨-, e⟩ | ⟨hm, hp, e⟩ | ⟨hm, e⟩ | ⟨m, d, e, hstep⟩ | ⟨hm, e⟩ | ⟨hm, e⟩ | ⟨hm, e⟩ | ⟨hm, e⟩
    <;> rw [e]
  · exact blockInv_finish hl h.decoded fun he => absurd (h.errcode.symm.trans he) (by decide)
  · have hne : ∀ m, m ≠ .reset1 → m ≠ .reset2 → s.mstep ≠ m := fun m h1 h2 =>
      hm.elim (fun hm => hm.trans_ne h1.symm) fun hm => hm.trans_ne h2.symm
    exact blockInv_takeError_notPresent hl (h.op_measure (hne _ (by decide) (by decide))) h.cleared
      (hne _ (by decide) (by decide)) hp
  · exact blockInv_finish hl (resultsDecoded_decodeResult _) fun he => absurd (h.errcode.symm.trans he) (by decide)
  · have hne : s.mstep ≠ .idle ∧ s.mstep ≠ .byteMsb := by
      rcases hstep with ⟨hm, -⟩ | ⟨hm, -⟩ | ⟨hm, -⟩ | ⟨hm, -⟩ <;>
        exact ⟨hm.trans_ne (by decide), hm.trans_ne (by decide)⟩
    have hop := h.op_measure hne.1
    refine blockInv_startWByte (h.underway_step hne.2 m) ?_
    rcases hstep with ⟨-, -, rfl, rfl⟩ | ⟨-, rfl, rfl⟩ | ⟨-, -, rfl, rfl⟩ | ⟨-, rfl, rfl⟩ <;> simp [RunsItsCommand, hop]
  · have hop := h.op_measure (hm.trans_ne (by decide))
    exact blockInv_startPrim_wait hl (h.underway_step (hm.trans_ne (by decide)) _) hop rfl rfl rfl
  · have hop := h.op_measure (hm.trans_ne (by decide))
    exact blockInv_startPrim (.inl rfl) (h.underway_step (hm.trans_ne (by decide)) _) rfl
      (by simp [RunsItsCommand, hop])
  · have hop := h.op_measure (hm.trans_ne (by decide))
    exact blockInv_startRByte (h.underway_step (hm.trans_ne (by decide)) _) (by simp [RunsItsCommand, hop])
  · have hop := h.op_measure (hm.trans_ne (by decide))
    obtain ⟨hv, ht16, htemp, hmsb, -⟩ := h.cleared hop
    refine blockInv_startRByte ⟨h.busy, h.done, h.errcode, fun _ => ⟨hv, ht16, htemp, hmsb, .inl rfl⟩, fun hv' => ?_⟩
      (by simp [RunsItsCommand, hop])
    exact absurd (hv.symm.trans hv') (by decide)

/-- `PrimDone` from the end of a primitive, the line released (R31). -/
theorem blockInv_primDone {s : State} (h : Running s) (hl : s.owOut = .H) : BlockInv (primDone s) := by
  have hslot := h.slot
  have hcmd := h.command
  rcases primDone_cases s with ⟨hm, -, e⟩ | ⟨hm, -, e⟩ | ⟨-, e⟩ <;> rw [e]
  · simp only [SlotOfByte, hm] at hslot
    refine blockInv_startPrim (.inr (.inl rfl)) (h.toUnderway.elsewhere ..) (by simp [SlotOfByte, hm]) ?_
    simpa [RunsItsCommand, hm, hslot.1] using hcmd
  · simp only [SlotOfByte, hm] at hslot
    refine blockInv_startPrim (.inr (.inr rfl)) (h.toUnderway.elsewhere ..) (by simp [SlotOfByte, hm]) ?_
    simpa [RunsItsCommand, hm, hslot] using hcmd
  · exact blockInv_measureNext h hl

/-! ## The tick, the taking of a word, the step -/

theorem timedSegment_countdown {s : State} (h : TimedSegment s) (ht : 1 < s.timer.toNat) :
    TimedSegment { passTick s with timer := s.timer - 1 } := by
  obtain ⟨r, hr, hl, -, hle⟩ := h
  have hsub : (s.timer - 1).toNat = s.timer.toNat - 1 := by
    rw [BitVec.toNat_sub_of_le (by rw [BitVec.le_def]; show 1 ≤ _; omega)]
    rfl
  refine ⟨r, hr, hl, ?_, ?_⟩ <;> dsimp only <;> rw [hsub] <;> omega

/-- Every tick of a busy block keeps the invariant (R30). -/
theorem blockInv_tick {s t : State} (h : BlockInv s) (hb : s.busy = true) (ht : tick s = .next t) : BlockInv t := by
  obtain ⟨hrun, htimed⟩ := h.running hb
  obtain ⟨r', hr', hlevel, -, -⟩ := id htimed
  have hsampled : ∀ r, segTable s.prim s.wb s.seg = some r →
      Running (sampleFor r.smp (flush (passTick s)))
        ∧ (sampleFor r.smp (flush (passTick s))).owOut = r.level := by
    intro r hr
    obtain rfl : r' = r := Option.some.inj (hr'.symm.trans hr)
    refine ⟨hrun.passTick_flush.sampleFor fun hk => ?_, by simpa using hlevel⟩
    simpa using segTable_prim_of_bit hr hk
  rcases tick_cases ht with ⟨hc, rfl⟩ | ⟨-, r, r2, hr, -, h2, rfl⟩ | ⟨-, r, hr, hlast, rfl⟩
  · exact blockInv_of_running (hrun.elsewhere ..) (timedSegment_countdown htimed hc)
  · obtain ⟨hk, hl⟩ := hsampled r hr
    exact blockInv_of_running (hk.nextSegment r r2) (timedSegment_nextSegment hl (by simpa using h2))
  · obtain ⟨hk, hl⟩ := hsampled r hr
    exact blockInv_primDone hk (hl.trans (segTable_level_of_last hr hlast))

/-- A command other than `MEASURE` begun on a word just taken (R28). -/
theorem underway_beginCmd {s : State} (hd : ResultsDecoded s) {o : OpCode} (ho : o ≠ .measure) (a : Byte) :
    Underway (beginCmd o a (wordTaken s)) := by
  refine ⟨rfl, rfl, rfl, fun h => absurd h ho, ?_⟩
  unfold wordTaken flush
  split <;> exact hd

/-- Taking a word keeps the invariant (R28). -/
theorem blockInv_exec {i : Instr} {s t : State} (h : BlockInv s) (ht : exec i s = .next t) : BlockInv t := by
  obtain ⟨-, hd, -⟩ := id h
  rcases exec_cases ht with ⟨-, rfl⟩ | ⟨-, ⟨-, rfl⟩ | ⟨b, -, rfl⟩ | ⟨-, rfl⟩ | ⟨-, rfl⟩ | ⟨-, rfl⟩ | ⟨-, rfl⟩⟩
  · exact h
  · exact blockInv_startPrim (.inl rfl) (underway_beginCmd hd (by decide) _) rfl ⟨rfl, rfl, rfl⟩
  · exact blockInv_startPrim (.inr (.inl rfl)) (underway_beginCmd hd (by decide) _) rfl ⟨rfl, rfl, rfl⟩
  · exact blockInv_startWByte (underway_beginCmd hd (by decide) _) ⟨rfl, rfl, rfl⟩
  · exact blockInv_startPrim (.inr (.inr rfl)) ((underway_beginCmd hd (by decide) 0).elsewhere ..) rfl ⟨rfl, rfl, rfl⟩
  · exact blockInv_startRByte (underway_beginCmd hd (by decide) _) ⟨rfl, rfl⟩
  · refine blockInv_startPrim (.inl rfl) ⟨rfl, rfl, rfl, fun _ => ⟨rfl, rfl, rfl, rfl, .inr rfl⟩, fun hv => ?_⟩ rfl
      ⟨rfl, rfl⟩
    cases hv

/-- An illegal word keeps the invariant of an idle block (R193). -/
theorem blockInv_takeError_illegal {s : State} (h : BlockInv s) (hb : s.busy = false) :
    BlockInv (takeError .illegalCommand s) := by
  obtain ⟨hp, hd, -⟩ := h.idle hb
  refine blockInv_of_idle (by simpa [takeError] using hb) ?_ ?_ fun he => by cases he
  · simpa [takeError, IdlePosition] using hp
  · simpa [takeError, ResultsDecoded, rawOf] using hd

theorem blockInv_takeRst (s : State) : BlockInv (takeRst s) :=
  blockInv_of_idle rfl ⟨rfl, rfl, rfl, rfl, rfl, rfl, rfl, rfl⟩ (fun h => by cases h) fun h => by cases h

/-- Settles O35, by what a step can do: the tick, the taking of a word and `rst` each keep the invariant. -/
theorem stepKeepsInv : Obligations.StepKeepsInv := by
  intro s t h hstep
  have hm := blockInv_hostMoves h
  rcases step_cases hstep with ⟨-, rfl⟩ | ⟨-, hb, ht⟩ | ⟨-, -, -, rfl⟩ | ⟨-, -, i, -, ht⟩ | ⟨-, hb, e, -, rfl⟩
  · exact blockInv_takeRst s
  · exact blockInv_tick hm (by simpa using hb) ht
  · exact blockInv_passTick hm
  · exact blockInv_exec hm ht
  · exact blockInv_takeError_illegal hm (by simpa using hb)

/-- Settles O34: every clause of the invariant is about a register `rst` clears. -/
theorem resetHasInv : Obligations.ResetHasInv :=
  blockInv_of_idle rfl ⟨rfl, rfl, rfl, rfl, rfl, rfl, rfl, rfl⟩ (fun h => by cases h) fun h => by cases h

end Sys2Proof.Machine
end


section
/-! SUPPORT. Proofs: what a step is, that it never stops, idle and busy ticks, acceptance, and the ports: the host's list
and `rd_sel` play no part in what the block does (spec/10_state.md R26 to R30, R37). -/

namespace Sys2Proof.Machine

/-! ## What a step is, by what the block finds on its ports (R28, R30, R220) -/

theorem step_of_rst {s : State} (hr : (portNow s).rst = true) : step s = .next (takeRst s) := by
  rw [step, if_pos hr]

theorem step_of_tick {s : State} (hr : (portNow s).rst = false) (hb : s.busy = true) : step s = tick (hostMoves s) := by
  rw [step, if_neg (by simp [hr]), if_pos hb]

theorem step_of_nothing {s : State} (hr : (portNow s).rst = false) (hb : s.busy = false) (hf : fetch s = .nothing) :
    step s = .next (passTick { s with host := s.host.tail }) := by
  rw [step, if_neg (by simp [hr]), if_neg (by simp [hb]), hf, hostMoves_of_idle hb]

theorem step_of_instr {s : State} {i : Instr} (hr : (portNow s).rst = false) (hb : s.busy = false)
    (hf : fetch s = .instr i) : step s = exec i { s with host := s.host.tail } := by
  rw [step, if_neg (by simp [hr]), if_neg (by simp [hb]), hf, hostMoves_of_idle hb]

theorem step_of_illegal {s : State} {e : DecodeError} (hr : (portNow s).rst = false) (hb : s.busy = false)
    (hf : fetch s = .illegal e) : step s = .next (takeError .illegalCommand { s with host := s.host.tail }) := by
  rw [step, if_neg (by simp [hr]), if_neg (by simp [hb]), hf, hostMoves_of_idle hb]

theorem fetch_of_not_valid {s : State} (hv : (portNow s).cmdValid = false) : fetch s = .nothing := by
  rw [fetch, if_neg (by simp [hv])]

theorem fetch_of_decoded {s : State} {i : Instr} (hv : (portNow s).cmdValid = true)
    (hd : decodeCmd (portNow s).cmd = .ok i) : fetch s = .instr i := by
  rw [fetch, if_pos hv, hd]

theorem portNow_cons {s : State} {p : PortIn} {rest : List PortIn} (h : s.host = p :: rest) : portNow s = p := by
  rw [portNow, h, List.headD_cons]

/-- Settles O6: the port's word is fetched, and the idle block's step is the instruction's own. -/
theorem stepRunsTheDecodedInstruction : Obligations.StepRunsTheDecodedInstruction := by
  intro s p rest i hhost hrst hvalid hb hdec
  have hp := portNow_cons hhost
  rw [step_of_instr (by rw [hp, hrst]) hb (fetch_of_decoded (by rw [hp, hvalid]) (by rw [hp, hdec])), hhost,
    List.tail_cons]

/-! ## No step stops -/

/-- An instruction presented always has a next state (R28). -/
theorem exec_total (i : Instr) (s : State) : ∃ t, exec i s = .next t := by
  have haccept : ∀ start, ∃ t, acceptCmd start s = .next t := by
    intro start
    cases hb : s.busy
    · exact ⟨_, acceptCmd_of_idle start hb⟩
    · exact ⟨_, acceptCmd_of_busy start hb⟩
  cases i <;> exact haccept fun u => _

/-- A tick in a position of the segment table has a next state (R26, R30). -/
theorem tick_total {s : State} (h : TimedSegment s) : ∃ t, tick s = .next t := by
  obtain ⟨r, hr, -, -, -⟩ := h
  by_cases ht : 1 < s.timer.toNat
  · exact ⟨_, tick_inside ht⟩
  · rw [tick_at_end (by omega) hr]
    cases hl : r.last
    · obtain ⟨r2, h2⟩ := segTable_next_of_not_last hr hl
      exact ⟨_, segmentEnd_more hl (by simp) h2⟩
    · exact ⟨_, segmentEnd_last hl (by simp)⟩

/-- Settles O36: a busy block stands in the segment table, and everything else a step does is total. -/
theorem stepNeverStops : Obligations.StepNeverStops := by
  intro s h
  cases hr : (portNow s).rst
  case true => exact ⟨_, step_of_rst hr⟩
  cases hb : s.busy
  case true =>
    rw [step_of_tick hr hb]
    exact tick_total ((blockInv_hostMoves h).running (by simpa using hb)).2
  cases hf : fetch s with
  | nothing => exact ⟨_, step_of_nothing hr hb hf⟩
  | instr i => rw [step_of_instr hr hb hf]; exact exec_total i _
  | illegal e => exact ⟨_, step_of_illegal hr hb hf⟩

/-! ## Time that only passes -/

/-- An idle tick: no `rst` and no word on the port, or no port values left (R30). -/
theorem step_of_quiet {s : State} (hb : s.busy = false)
    (hq : ∀ p ∈ s.host.take 1, p.rst = false ∧ p.cmdValid = false) :
    step s = .next (passTick { s with host := s.host.tail }) := by
  have hport : (portNow s).rst = false ∧ (portNow s).cmdValid = false := by
    cases hh : s.host with
    | nil => simp [portNow, hh, PortIn.quiet]
    | cons p ps =>
      rw [portNow_cons hh]
      exact hq p (by simp [hh])
  exact step_of_nothing hport.1 hb (fetch_of_not_valid hport.2)

/-- Settles O12, by induction on the number of ticks. -/
theorem idleTicksOnlyPassTime : Obligations.IdleTicksOnlyPassTime := by
  intro s g hb hg hquiet
  obtain ⟨n, rfl⟩ : ∃ n, g = n + 1 := ⟨g - 1, by omega⟩
  clear hg
  induction n generalizing s with
  | zero =>
    rw [Nat.zero_add, runSteps_one, step_of_quiet hb hquiet, List.drop_one]
    rfl
  | succ n ih =>
    have hfirst := step_of_quiet hb fun p hp => hquiet p ((List.take_sublist_take_left (by omega)).subset hp)
    rw [runSteps_succ (n + 1) hfirst, ih _ (by exact hb) fun p hp => hquiet p ?_]
    · simp [passTick, Nat.add_assoc, Nat.add_comm 1]
    · revert hp
      cases s.host <;> simp +contextual

/-- Settles O13: it is the run of a countdown. -/
theorem timerCountsTheSegment : Obligations.TimerCountsTheSegment := by
  intro s n hb hn hlt hr
  obtain ⟨k, rfl⟩ : ∃ k, n = k + 1 := ⟨n - 1, by omega⟩
  exact (busyFor_countdown k hb hlt hr).1

/-! ## The host's list plays no part in what the block does -/

/-- A state whose host presents another list. -/
def setHost (h : List PortIn) (s : State) : State := { s with host := h }

theorem flush_setHost (h : List PortIn) (s : State) : flush (setHost h s) = setHost h (flush s) := by
  unfold flush setHost
  split <;> rfl

theorem sampleFor_setHost (k : Smp) (h : List PortIn) (s : State) :
    sampleFor k (setHost h s) = setHost h (sampleFor k s) := by
  cases k <;> rfl

theorem nextSegment_setHost (r r2 : Segment) (h : List PortIn) (s : State) :
    nextSegment r r2 (setHost h s) = setHost h (nextSegment r r2 s) := by
  unfold nextSegment
  split <;> rfl

theorem startPrim_setHost (p : Prim) (b : Bool) (h : List PortIn) (s : State) :
    startPrim p b (setHost h s) = setHost h (startPrim p b s) := by
  unfold startPrim
  split
  · rfl
  · split <;> rfl

theorem startWByte_setHost (d : Byte) (h : List PortIn) (s : State) :
    startWByte d (setHost h s) = setHost h (startWByte d s) :=
  startPrim_setHost _ _ h { s with shreg := d, byteMode := .writing, bitIdx := 0 }

theorem startRByte_setHost (h : List PortIn) (s : State) : startRByte (setHost h s) = setHost h (startRByte s) :=
  startPrim_setHost _ _ h { s with shreg := 0, byteMode := .reading, bitIdx := 0 }

theorem ifPresent_setHost {next : State → State} (h : List PortIn)
    (hn : ∀ s, next (setHost h s) = setHost h (next s)) (s : State) :
    ifPresent next (setHost h s) = setHost h (ifPresent next s) := by
  unfold ifPresent
  rw [hn]
  split
  · rename_i hp
    rw [if_pos (by exact hp)]
  · rename_i hp
    rw [if_neg (by exact hp)]
    rfl

theorem measureNext_setHost (h : List PortIn) (s : State) :
    measureNext (setHost h s) = setHost h (measureNext s) := by
  have hm : (setHost h s).mstep = s.mstep := rfl
  unfold measureNext
  rw [hm]
  cases s.mstep with
  | idle | byteMsb => rfl
  | reset1 => exact ifPresent_setHost h (fun u => startWByte_setHost _ h { u with mstep := .skip1 }) s
  | reset2 => exact ifPresent_setHost h (fun u => startWByte_setHost _ h { u with mstep := .skip2 }) s
  | skip1 => exact startWByte_setHost _ h { s with mstep := .convert }
  | skip2 => exact startWByte_setHost _ h { s with mstep := .readSp }
  | convert => exact startPrim_setHost _ _ h { s with mstep := .wait }
  | wait => exact startPrim_setHost _ _ h { s with mstep := .reset2 }
  | readSp => exact startRByte_setHost h { s with mstep := .byteLsb }
  | byteLsb => exact startRByte_setHost h { s with spLsb := s.shreg, mstep := .byteMsb }

theorem nextSlot_setHost (h : List PortIn) (s : State) : nextSlot (setHost h s) = setHost h (nextSlot s) := by
  have hm : (setHost h s).byteMode = s.byteMode := rfl
  unfold nextSlot
  rw [hm]
  split
  · exact startPrim_setHost _ _ h { s with bitIdx := s.bitIdx + 1 }
  · exact startPrim_setHost _ _ h { s with bitIdx := s.bitIdx + 1 }

theorem primDone_setHost (h : List PortIn) (s : State) : primDone (setHost h s) = setHost h (primDone s) := by
  have hm : (setHost h s).byteMode = s.byteMode ∧ (setHost h s).bitIdx = s.bitIdx := ⟨rfl, rfl⟩
  unfold primDone
  rw [hm.1, hm.2]
  split
  · exact nextSlot_setHost h s
  · exact measureNext_setHost h { s with byteMode := .none, bitIdx := 0 }

/-- The end of a segment is the same whatever the host's list holds. -/
theorem segmentEnd_setHost {r : Segment} {s t : State} (h : List PortIn) (ht : segmentEnd r s = .next t) :
    segmentEnd r (setHost h s) = .next (setHost h t) := by
  have hpos : segTable (setHost h s).prim (setHost h s).wb ((setHost h s).seg + 1) = segTable s.prim s.wb (s.seg + 1) :=
    rfl
  unfold segmentEnd at ht ⊢
  rw [flush_setHost, sampleFor_setHost, primDone_setHost, hpos]
  split at ht
  · rw [if_pos ‹_›, ← Host.Outcome.next.inj ht]
  · rw [if_neg ‹_›]
    split at ht
    · cases ht
    · rename_i r2 h2
      simp only [h2, ← Host.Outcome.next.inj ht, nextSegment_setHost]

/-- A tick is the same whatever the host's list holds. -/
theorem tick_setHost {s t : State} (h : List PortIn) (ht : tick s = .next t) :
    tick (setHost h s) = .next (setHost h t) := by
  have hpos : (setHost h s).timer = s.timer
      ∧ segTable (setHost h s).prim (setHost h s).wb (setHost h s).seg = segTable s.prim s.wb s.seg
      ∧ passTick (setHost h s) = setHost h (passTick s) := ⟨rfl, rfl, rfl⟩
  obtain ⟨htimer, hrow, hpass⟩ := hpos
  unfold tick at ht ⊢
  rw [htimer, hrow, hpass]
  split at ht
  · rw [if_pos ‹_›, ← Host.Outcome.next.inj ht]
    rfl
  · rw [if_neg ‹_›]
    split at ht
    · cases ht
    · exact segmentEnd_setHost h ht

/-! ## A busy block and the command port -/

/-- A busy block leaves a word on the port alone (R28). -/
theorem exec_of_busy (i : Instr) {s : State} (hb : s.busy = true) : exec i s = .next s := by
  obtain ⟨t, ht⟩ := exec_total i s
  rcases exec_cases ht with ⟨-, rfl⟩ | ⟨hidle, -⟩
  · exact ht
  · exact absurd (hidle.symm.trans hb) (by decide)

/-- Settles O8: the tick does not see the host's list. -/
theorem busyBlockTakesNoWord : Obligations.BusyBlockTakesNoWord := by
  intro s hb
  refine ⟨fun i => exec_of_busy i hb, fun h h' t hr hr' ht => ?_⟩
  rw [step_of_busy (by exact hb) hr] at ht
  rw [step_of_busy (by exact hb) hr']
  have hsame := tick_setHost (hostAfterBusyTick h') ht
  exact hsame

/-! ## Acceptance -/

theorem startPrim_owOut {p : Prim} (b : Bool) (hp : p = .reset ∨ p = .wbit ∨ p = .rbit) (s : State) :
    (startPrim p b s).owOut = .L := by
  obtain ⟨r, -, -, he⟩ := startPrim_slot b hp s
  rw [he]

theorem startPrim_trace {p : Prim} (b : Bool) (hp : p = .reset ∨ p = .wbit ∨ p = .rbit) (s : State) :
    (startPrim p b s).trace = s.trace ++ [.drv .L] := by
  obtain ⟨r, -, -, he⟩ := startPrim_slot b hp s
  rw [he]

@[simp] theorem startWByte_shreg (d : Byte) (s : State) : (startWByte d s).shreg = d := by
  rw [startWByte, startPrim_shreg]

@[simp] theorem startRByte_shreg (s : State) : (startRByte s).shreg = 0 := by
  rw [startRByte, startPrim_shreg]

@[simp] theorem startWByte_owOut (d : Byte) (s : State) : (startWByte d s).owOut = .L :=
  startPrim_owOut _ (.inr (.inl rfl)) _

@[simp] theorem startRByte_owOut (s : State) : (startRByte s).owOut = .L := startPrim_owOut _ (.inr (.inr rfl)) _

@[simp] theorem startWByte_trace (d : Byte) (s : State) : (startWByte d s).trace = s.trace ++ [.drv .L] :=
  startPrim_trace _ (.inr (.inl rfl)) _

@[simp] theorem startRByte_trace (s : State) : (startRByte s).trace = s.trace ++ [.drv .L] :=
  startPrim_trace _ (.inr (.inr rfl)) _

/-- With no `Dly` growing, the trace is the whole trace. -/
theorem fullTrace_of_cur_eq_zero {s : State} (hc : s.cur = 0) : fullTrace s = s.trace := by
  rw [fullTrace, if_pos hc]

/-- The slot of an accepted command opens right after the word is taken: one `Drv(L)`, and the gap before it closed. -/
theorem exec_opens_slot {i : Instr} {s t : State} (hb : s.busy = false) (ht : exec i s = .next t) :
    t.owOut = .L ∧ fullTrace t = fullTrace s ++ [.drv .L] := by
  rcases exec_cases ht with ⟨hbusy, -⟩ | ⟨-, ⟨-, rfl⟩ | ⟨b, -, rfl⟩ | ⟨-, rfl⟩ | ⟨-, rfl⟩ | ⟨-, rfl⟩ | ⟨-, rfl⟩⟩
  · exact absurd (hb.symm.trans hbusy) (by decide)
  all_goals
    rw [fullTrace_of_cur_eq_zero (by simp [wordTaken])]
    simp [startPrim_owOut, startPrim_trace, wordTaken]

/-- What every acceptance writes and leaves alone, whatever the command (R28). -/
theorem exec_frame {i : Instr} {s t : State} (hb : s.busy = false) (ht : exec i s = .next t) :
    t.op = opOf i ∧ t.arg = argOf i ∧ t.busy = true ∧ t.done = false ∧ t.errcode = .none
      ∧ t.data = s.data ∧ t.presence = s.presence ∧ t.decodeMode = s.decodeMode ∧ t.host = s.host := by
  rcases exec_cases ht with
    ⟨hbusy, -⟩ | ⟨-, ⟨rfl, rfl⟩ | ⟨b, rfl, rfl⟩ | ⟨ho, rfl⟩ | ⟨rfl, rfl⟩ | ⟨rfl, rfl⟩ | ⟨rfl, rfl⟩⟩
  · exact absurd (hb.symm.trans hbusy) (by decide)
  case inr.inr.inr.inl => simp [wordTaken, ho]
  all_goals simp [wordTaken, opOf, argOf]

/-- `MEASURE` clears its results at acceptance, the other commands leave them (R28). -/
theorem exec_results {i : Instr} {s t : State} (hb : s.busy = false) (ht : exec i s = .next t) :
    (i ≠ .measure →
        t.valid = s.valid ∧ t.spLsb = s.spLsb ∧ t.spMsb = s.spMsb ∧ t.t16 = s.t16 ∧ t.temp10 = s.temp10)
      ∧ (i = .measure →
        t.valid = false ∧ t.spLsb = 0 ∧ t.spMsb = 0 ∧ t.t16 = 0 ∧ t.temp10 = 0 ∧ t.mstep = .reset1) := by
  rcases exec_cases ht with
    ⟨hbusy, -⟩ | ⟨-, ⟨rfl, rfl⟩ | ⟨b, rfl, rfl⟩ | ⟨ho, rfl⟩ | ⟨rfl, rfl⟩ | ⟨rfl, rfl⟩ | ⟨rfl, rfl⟩⟩
  · exact absurd (hb.symm.trans hbusy) (by decide)
  case inr.inr.inr.inl =>
    have hi : i ≠ .measure := fun h => by rw [h] at ho; cases ho
    simp [wordTaken, hi]
  all_goals simp [wordTaken]

/-- `SHREG` at acceptance: the byte to write, 0 for a read, else kept (R28). -/
theorem exec_shreg {i : Instr} {s t : State} (hb : s.busy = false) (ht : exec i s = .next t) :
    (opOf i = .wbyte → t.shreg = argOf i) ∧ (i = .rbit ∨ i = .rbyte → t.shreg = 0)
      ∧ (opOf i = .reset ∨ opOf i = .wbit ∨ opOf i = .measure → t.shreg = s.shreg) := by
  rcases exec_cases ht with
    ⟨hbusy, -⟩ | ⟨-, ⟨rfl, rfl⟩ | ⟨b, rfl, rfl⟩ | ⟨ho, rfl⟩ | ⟨rfl, rfl⟩ | ⟨rfl, rfl⟩ | ⟨rfl, rfl⟩⟩
  · exact absurd (hb.symm.trans hbusy) (by decide)
  case inr.inr.inr.inl =>
    refine ⟨fun _ => startWByte_shreg _ _, fun hi => ?_, fun h => ?_⟩
    · rcases hi with rfl | rfl <;> cases ho
    · simp [ho] at h
  all_goals simp [wordTaken, opOf]

/-- Settles O7: an acceptance has a next state, and the rules of acceptance say what it holds. -/
theorem acceptStartsTheCommand : Obligations.AcceptStartsTheCommand := by
  intro i s hb
  obtain ⟨t, ht⟩ := exec_total i s
  obtain ⟨hop, harg, hbusy, hdone, herr, hdata, hpres, hmode, -⟩ := exec_frame hb ht
  obtain ⟨how, htrace⟩ := exec_opens_slot hb ht
  obtain ⟨hother, hmeasure⟩ := exec_results hb ht
  exact ⟨t, ht, hop, harg, hbusy, hdone, herr, how, htrace, hdata, hpres, hmode, hother, hmeasure, exec_shreg hb ht⟩

/-! ## The read map (R37) -/

/-- Every bit of `STATUS` (R37). -/
theorem statusWord_bits (s : State) :
    (statusWord s).getLsbD 0 = s.busy ∧ (statusWord s).getLsbD 1 = s.done ∧ (statusWord s).getLsbD 2 = s.presence
      ∧ (statusWord s).getLsbD 3 = s.valid ∧ (statusWord s).extractLsb' 4 2 = errNumber s.errcode
      ∧ (statusWord s).getLsbD 6 = (s.owOut == .H) ∧ (statusWord s).extractLsb' 7 25 = 0 := by
  have hword : ∀ (l : Bool) (e : BitVec 2) (v p d b : Bool),
      let w : Word32 := (BitVec.ofBool l ++ e ++ BitVec.ofBool v ++ BitVec.ofBool p ++ BitVec.ofBool d
        ++ BitVec.ofBool b).setWidth 32
      w.getLsbD 0 = b ∧ w.getLsbD 1 = d ∧ w.getLsbD 2 = p ∧ w.getLsbD 3 = v ∧ w.extractLsb' 4 2 = e
        ∧ w.getLsbD 6 = l ∧ w.extractLsb' 7 25 = 0 := by
    decide
  exact hword (levelBit s.owOut) (errNumber s.errcode) s.valid s.presence s.done s.busy

/-- The two bytes of the scratchpad as a number (R23, R170). -/
theorem assembleBytes_toNat (lsb msb : Byte) : (assembleBytes lsb msb).toNat = 256 * msb.toNat + lsb.toNat := by
  have hl := lsb.isLt
  have hm := msb.isLt
  have hor := Nat.shiftLeft_add_eq_or_of_lt hl msb.toNat
  rw [Nat.shiftLeft_eq] at hor
  simp only [assembleBytes, BitVec.toNat_or, BitVec.toNat_shiftLeft, BitVec.toNat_setWidth, Nat.shiftLeft_eq]
  rw [Nat.mod_eq_of_lt (a := msb.toNat) (by omega), Nat.mod_eq_of_lt (a := lsb.toNat) (by omega),
    Nat.mod_eq_of_lt (by omega), ← hor]
  omega

/-- A byte shown on `rd_data` keeps its value. -/
theorem setWidth_byte_toNat (d : Byte) : (d.setWidth 32).toNat = d.toNat :=
  BitVec.toNat_setWidth_of_le (by decide)

/-- What each entry of the read map but `STATUS` shows, by value (R37). -/
theorem readMap_values (s : State) :
    (readMap s 1).toNat = s.data.toNat ∧ (readMap s 2).toNat = s.spLsb.toNat ∧ (readMap s 3).toNat = s.spMsb.toNat
      ∧ (readMap s 4).toNat = 256 * s.spMsb.toNat + s.spLsb.toNat ∧ readMap s 5 = s.t16 ∧ readMap s 6 = s.temp10
      ∧ (readMap s 7).toNat = (if s.decodeMode = .legacy4096 then 1 else 0) := by
  refine ⟨setWidth_byte_toNat _, setWidth_byte_toNat _, setWidth_byte_toNat _, ?_, rfl, rfl, ?_⟩
  · rw [← assembleBytes_toNat]
    exact BitVec.toNat_setWidth_of_le (by decide)
  · show ((modeNumber s.decodeMode).setWidth 32).toNat = _
    cases s.decodeMode <;> rfl

/-! ## Reading changes nothing -/

/-- An idle block's step uses up one entry of the host's list. -/
theorem step_host_of_idle {s t : State} (hr : (portNow s).rst = false) (hb : s.busy = false)
    (h : step s = .next t) : t.host = s.host.tail := by
  cases hf : fetch s with
  | nothing => rw [← Host.Outcome.next.inj ((step_of_nothing hr hb hf).symm.trans h), passTick_host]
  | instr i =>
    rw [step_of_instr hr hb hf] at h
    obtain ⟨-, -, -, -, -, -, -, -, hhost⟩ := exec_frame (s := { s with host := s.host.tail }) hb h
    exact hhost
  | illegal e =>
    rw [← Host.Outcome.next.inj ((step_of_illegal hr hb hf).symm.trans h)]
    simp [takeError]

/-- The word taken depends on `cmd_valid` and `cmd` alone. -/
theorem fetch_congr {s u : State} (hv : (portNow u).cmdValid = (portNow s).cmdValid)
    (hc : (portNow u).cmd = (portNow s).cmd) : fetch u = fetch s := by
  rw [fetch, fetch, hv, hc]

/-- An idle block's step sees only what its port asks for, not what it reads (R24, R71). -/
theorem step_rdSel_of_idle {s : State} {p : PortIn} {rest : List PortIn} (sel : BitVec 3) (hh : s.host = p :: rest)
    (hr : p.rst = false) (hb : s.busy = false) :
    step { s with host := { p with rdSel := sel } :: rest } = step s := by
  have hr' : (portNow s).rst = false := by rw [portNow_cons hh, hr]
  have hfetch : fetch { s with host := { p with rdSel := sel } :: rest } = fetch s :=
    fetch_congr (by rw [portNow_cons hh]; rfl) (by rw [portNow_cons hh]; rfl)
  have hmoves : { s with host := s.host.tail } = { s with host := rest } := by rw [hh, List.tail_cons]
  cases hf : fetch s with
  | nothing => rw [step_of_nothing hr' hb hf, hmoves]; exact step_of_nothing hr hb (hfetch.trans hf)
  | instr i => rw [step_of_instr hr' hb hf, hmoves]; exact step_of_instr hr hb (hfetch.trans hf)
  | illegal e => rw [step_of_illegal hr' hb hf, hmoves]; exact step_of_illegal hr hb (hfetch.trans hf)

/-- Whatever `rd_sel` is, the step is the same, the host's own list apart (R24, R71). -/
theorem step_rdSel {s t : State} {p : PortIn} {rest : List PortIn} (sel : BitVec 3) (hh : s.host = p :: rest)
    (h : step s = .next t) :
    step { s with host := { p with rdSel := sel } :: rest }
      = .next { t with
          host :=
            if p.rst = false ∧ p.hold = true ∧ s.busy = true then { p with rdSel := sel } :: rest else rest } := by
  rcases Bool.eq_false_or_eq_true p.rst with hr | hr
  · have ht := Host.Outcome.next.inj ((step_of_rst (by rw [portNow_cons hh, hr])).symm.trans h)
    rw [step_of_rst (by exact hr), ← ht, if_neg (by simp [hr])]
    rfl
  rcases Bool.eq_false_or_eq_true s.busy with hb | hb
  · obtain ⟨-, hsame⟩ := busyBlockTakesNoWord s hb
    rw [hsame (p :: rest) ({ p with rdSel := sel } :: rest) t (by simp [noRstFor, hr]) (by simp [noRstFor, hr])
      (by rw [← hh]; exact h)]
    simp [hostAfterBusyTick, hr, hb]
  · have hhost := step_host_of_idle (by rw [portNow_cons hh, hr]) hb h
    rw [hh, List.tail_cons] at hhost
    rw [step_rdSel_of_idle sel hh hr hb, h, if_neg (by simp [hb]), ← hhost]

/-- Settles O45: the read map entry by entry, and that a step does not see `rd_sel`. -/
theorem readMapShowsTheRegisters : Obligations.ReadMapShowsTheRegisters := by
  intro s
  obtain ⟨hdata, hlsb, hmsb, hraw, ht16, htemp, hmode⟩ := readMap_values s
  exact ⟨rfl, statusWord_bits s, hdata, hlsb, hmsb, hraw, ht16, htemp, hmode,
    fun p rest sel t hh h => step_rdSel sel hh h⟩

end Sys2Proof.Machine
end


section
/-! SUPPORT. Proofs: which step writes the strap, `PRESENCE`, `DATA` and the results, and that the trace only grows
(spec/10_state.md R22, R30, R33, R35, R38). -/

namespace Sys2Proof.Machine

/-! ## The strap (R38) -/

@[simp] theorem measureNext_decodeMode (s : State) : (measureNext s).decodeMode = s.decodeMode := by
  rcases measureNext_cases s with
    ⟨-, e⟩ | ⟨-, -, e⟩ | ⟨-, e⟩ | ⟨m, d, e, -⟩ | ⟨-, e⟩ | ⟨-, e⟩ | ⟨-, e⟩ | ⟨-, e⟩ <;> rw [e] <;> simp [takeError]

@[simp] theorem primDone_decodeMode (s : State) : (primDone s).decodeMode = s.decodeMode := by
  rcases primDone_cases s with ⟨-, -, e⟩ | ⟨-, -, e⟩ | ⟨-, e⟩ <;> rw [e] <;> simp

theorem tick_decodeMode {s t : State} (h : tick s = .next t) : t.decodeMode = s.decodeMode := by
  rcases tick_cases h with ⟨-, rfl⟩ | ⟨-, r, r2, -, -, -, rfl⟩ | ⟨-, r, -, -, rfl⟩ <;> simp

/-- Settles O41: no operation of a step writes the strap. -/
theorem strapNeverChanges : Obligations.StrapNeverChanges := by
  intro s t h
  rcases step_cases h with ⟨-, rfl⟩ | ⟨-, -, ht⟩ | ⟨-, -, -, rfl⟩ | ⟨-, hb, i, -, ht⟩ | ⟨-, -, e, -, rfl⟩
  · rfl
  · exact (tick_decodeMode ht).trans (hostMoves_decodeMode s)
  · simp
  · obtain ⟨-, -, -, -, -, -, -, hmode, -⟩ := exec_frame (by simpa using hb) ht
    exact hmode.trans (hostMoves_decodeMode s)
  · simp [takeError]

/-! ## `PRESENCE` (R35) -/

@[simp] theorem measureNext_presence (s : State) : (measureNext s).presence = s.presence := by
  rcases measureNext_cases s with
    ⟨-, e⟩ | ⟨-, -, e⟩ | ⟨-, e⟩ | ⟨m, d, e, -⟩ | ⟨-, e⟩ | ⟨-, e⟩ | ⟨-, e⟩ | ⟨-, e⟩ <;> rw [e] <;> simp [takeError]

@[simp] theorem primDone_presence (s : State) : (primDone s).presence = s.presence := by
  rcases primDone_cases s with ⟨-, -, e⟩ | ⟨-, -, e⟩ | ⟨-, e⟩ <;> rw [e] <;> simp

/-- Only the presence sample writes `PRESENCE` (R30). -/
theorem sampleFor_presence {k : Smp} (hk : k ≠ .presence) (s : State) : (sampleFor k s).presence = s.presence := by
  cases k with
  | none => rfl
  | bit => rfl
  | presence => exact absurd rfl hk

/-- A tick writes `PRESENCE` only where segment 1 of a reset slot ends (R122). -/
theorem tick_presence {s t : State} (h : tick s = .next t) (hne : t.presence ≠ s.presence) :
    s.prim = .reset ∧ s.seg = 1 ∧ s.timer.toNat ≤ 1 := by
  have hsmp : ∀ r, segTable s.prim s.wb s.seg = some r →
      (sampleFor r.smp (flush (passTick s))).presence ≠ s.presence → s.prim = .reset ∧ s.seg = 1 := by
    intro r hr hchange
    by_contra hpos
    exact hchange ((sampleFor_presence (fun hk => hpos (segTable_prim_of_presence hr hk)) _).trans (by simp))
  rcases tick_cases h with ⟨-, rfl⟩ | ⟨hc, r, r2, hr, -, -, rfl⟩ | ⟨hc, r, hr, -, rfl⟩
  · exact absurd rfl hne
  · obtain ⟨hp, hseg⟩ := hsmp r hr (by simpa using hne)
    exact ⟨hp, hseg, hc⟩
  · obtain ⟨hp, hseg⟩ := hsmp r hr (by simpa using hne)
    exact ⟨hp, hseg, hc⟩

/-- Settles O38: of all a step can do, only a tick writes `PRESENCE`. -/
theorem onlyPresenceSampleWritesPresence : Obligations.OnlyPresenceSampleWritesPresence := by
  intro s t hr h hne
  rcases step_cases h with ⟨hr', -⟩ | ⟨-, hb, ht⟩ | ⟨-, -, -, rfl⟩ | ⟨-, hb, i, -, ht⟩ | ⟨-, -, e, -, rfl⟩
  · exact absurd (hr.symm.trans hr') (by decide)
  · have hpos := tick_presence ht (by simpa using hne)
    exact ⟨hb, by simpa using hpos⟩
  · simp at hne
  · obtain ⟨-, -, -, -, -, -, hpres, -, -⟩ := exec_frame (by simpa using hb) ht
    exact absurd (hpres.trans (hostMoves_presence s)) hne
  · simp [takeError] at hne

/-! ## `DATA` (R22, R33) -/

/-- `Finish` leaves `DATA` alone, or is the end of a read command and copies `SHREG` (R33). -/
theorem finish_data_cases (s : State) :
    (finish s).data = s.data ∨ ((s.op = .rbit ∨ s.op = .rbyte) ∧ (finish s).data = (finish s).shreg) := by
  by_cases hop : s.op = .rbit ∨ s.op = .rbyte
  · exact .inr ⟨hop, if_pos hop⟩
  · exact .inl (if_neg hop)

/-- What `MeasureNext` does to `DATA`: nothing, or it ends a read command. -/
theorem measureNext_data_cases (s : State) :
    (measureNext s).data = s.data
      ∨ ((s.op = .rbit ∨ s.op = .rbyte) ∧ (measureNext s).busy = false ∧ (measureNext s).done = true
        ∧ (measureNext s).data = (measureNext s).shreg) := by
  have hfinish : ∀ u : State, u.data = s.data → u.op = s.op → measureNext s = finish u →
      (measureNext s).data = s.data
        ∨ ((s.op = .rbit ∨ s.op = .rbyte) ∧ (measureNext s).busy = false ∧ (measureNext s).done = true
          ∧ (measureNext s).data = (measureNext s).shreg) := by
    intro u hdata hop e
    rw [e, ← hdata, ← hop]
    rcases finish_data_cases u with h | ⟨hr, h⟩
    · exact .inl h
    · exact .inr ⟨hr, rfl, rfl, h⟩
  rcases measureNext_cases s with
    ⟨-, e⟩ | ⟨-, -, e⟩ | ⟨-, e⟩ | ⟨m, d, e, -⟩ | ⟨-, e⟩ | ⟨-, e⟩ | ⟨-, e⟩ | ⟨-, e⟩
  · exact hfinish s rfl rfl e
  · exact hfinish (notifyError { s with errcode := .notPresent, temp10 := sentinel }) rfl rfl e
  · exact hfinish (decodeResult { s with spMsb := s.shreg }) rfl rfl e
  all_goals exact .inl (by rw [e]; simp)

/-- What a tick does to `DATA`: nothing, or it ends a read command. -/
theorem tick_data_cases {s t : State} (h : tick s = .next t) :
    t.data = s.data
      ∨ ((s.op = .rbit ∨ s.op = .rbyte) ∧ t.busy = false ∧ t.done = true ∧ t.data = t.shreg) := by
  rcases tick_cases h with ⟨-, rfl⟩ | ⟨-, r, r2, -, -, -, rfl⟩ | ⟨-, r, -, -, rfl⟩
  · exact .inl rfl
  · exact .inl (by simp)
  · rcases primDone_cases (sampleFor r.smp (flush (passTick s))) with ⟨-, -, e⟩ | ⟨-, -, e⟩ | ⟨-, e⟩ <;> rw [e]
    · exact .inl (by simp)
    · exact .inl (by simp)
    · simpa using measureNext_data_cases { sampleFor r.smp (flush (passTick s)) with byteMode := .none, bitIdx := 0 }

/-- Settles O39: of all a step can do, only the end of a read command writes `DATA`. -/
theorem onlyReadCommandsWriteData : Obligations.OnlyReadCommandsWriteData := by
  intro s t hr h hne
  rcases step_cases h with ⟨hr', -⟩ | ⟨-, hb, ht⟩ | ⟨-, -, -, rfl⟩ | ⟨-, hb, i, -, ht⟩ | ⟨-, -, e, -, rfl⟩
  · exact absurd (hr.symm.trans hr') (by decide)
  · rcases tick_data_cases ht with hsame | ⟨hop, hend⟩
    · exact absurd (hsame.trans (hostMoves_data s)) hne
    · exact ⟨hb, by simpa using hop, hend⟩
  · simp at hne
  · obtain ⟨-, -, -, -, -, hdata, -⟩ := exec_frame (by simpa using hb) ht
    exact absurd (hdata.trans (hostMoves_data s)) hne
  · simp [takeError] at hne

/-! ## The result registers (R22, R35) -/

/-- Two states show the same results. -/
def SameResults (s t : State) : Prop :=
  t.valid = s.valid ∧ t.t16 = s.t16 ∧ t.temp10 = s.temp10 ∧ t.spLsb = s.spLsb ∧ t.spMsb = s.spMsb

/-- `PrimDone` outside a measurement leaves the results alone. -/
theorem sameResults_primDone {s : State} (hm : s.mstep = .idle) : SameResults s (primDone s) := by
  rcases primDone_cases s with ⟨-, -, e⟩ | ⟨-, -, e⟩ | ⟨-, e⟩
  · rw [e]; simp [SameResults]
  · rw [e]; simp [SameResults]
  · rw [e, measureNext, hm]
    exact ⟨rfl, rfl, rfl, rfl, rfl⟩

/-- A tick outside a measurement leaves the results alone. -/
theorem sameResults_tick {s t : State} (hm : s.mstep = .idle) (h : tick s = .next t) : SameResults s t := by
  rcases tick_cases h with ⟨-, rfl⟩ | ⟨-, r, r2, -, -, -, rfl⟩ | ⟨-, r, -, -, rfl⟩
  · exact ⟨rfl, rfl, rfl, rfl, rfl⟩
  · simp [SameResults]
  · have hsame := sameResults_primDone (s := sampleFor r.smp (flush (passTick s))) (by simpa using hm)
    simpa [SameResults] using hsame

/-- Settles O40: outside `MEASURE` no tick writes a result, and of all words taken only its own does. -/
theorem onlyMeasureWritesResults : Obligations.OnlyMeasureWritesResults := by
  intro s t hinv hr h hne
  have hdiff : ¬ SameResults s t := by
    rintro ⟨h1, h2, h3, h4, h5⟩
    simp [h1, h2, h3, h4, h5] at hne
  rcases step_cases h with ⟨hr', -⟩ | ⟨-, hb, ht⟩ | ⟨-, -, -, rfl⟩ | ⟨-, hb, i, hf, ht⟩ | ⟨-, -, e, -, rfl⟩
  · exact absurd (hr.symm.trans hr') (by decide)
  · refine .inl ⟨hb, ?_⟩
    by_contra hop
    have hm := (hinv.running hb).1.mstep_eq_idle hop
    exact hdiff (by simpa [SameResults] using sameResults_tick (by simpa using hm) ht)
  · exact absurd (by simp [SameResults]) hdiff
  · obtain ⟨hother, hmeasure⟩ := exec_results (by simpa using hb) ht
    by_cases hi : i = .measure
    · obtain ⟨hv, hl, hm, ht16, htemp, -⟩ := hmeasure hi
      exact .inr ⟨hb, hi ▸ hf, hv, ht16, htemp, hl, hm⟩
    · obtain ⟨hv, hl, hm, ht16, htemp⟩ := hother hi
      exact absurd (by simp [SameResults, hv, hl, hm, ht16, htemp]) hdiff
  · exact absurd (by simp [SameResults, takeError]) hdiff

/-! ## The trace (R14, R30) -/

theorem elapsed_append (tr tr' : List Event) : elapsed (tr ++ tr') = elapsed tr + elapsed tr' := by
  induction tr with
  | nil => simp [elapsed]
  | cons e tr ih => cases e <;> simp [elapsed, ih, Nat.add_assoc]

/-- The growing `Dly` counts in the whole trace as long as it is. -/
theorem elapsed_fullTrace (s : State) : elapsed (fullTrace s) = elapsed s.trace + s.cur := by
  unfold fullTrace
  split
  · rename_i hc
    rw [hc, Nat.add_zero]
  · simp [elapsed_append, elapsed]

theorem fullTrace_extends_trace (s : State) : ∃ evs, fullTrace s = s.trace ++ evs := by
  unfold fullTrace
  split
  · exact ⟨[], by simp⟩
  · exact ⟨[.dly s.cur], rfl⟩

/-- From `s` to `t` events were recorded that take no time, and no `Dly` grew. -/
def RecordsNoTime (s t : State) : Prop := t.cur = s.cur ∧ ∃ evs, t.trace = s.trace ++ evs ∧ elapsed evs = 0

theorem RecordsNoTime.of_eq {s t : State} (hc : t.cur = s.cur) (ht : t.trace = s.trace) : RecordsNoTime s t :=
  ⟨hc, [], by simp [ht], rfl⟩

theorem RecordsNoTime.trans {s t u : State} (h1 : RecordsNoTime s t) (h2 : RecordsNoTime t u) : RecordsNoTime s u := by
  obtain ⟨hc1, e1, ht1, hn1⟩ := h1
  obtain ⟨hc2, e2, ht2, hn2⟩ := h2
  exact ⟨hc2.trans hc1, e1 ++ e2, by rw [ht2, ht1, List.append_assoc], by rw [elapsed_append, hn1, hn2]⟩

theorem recordsNoTime_startPrim (p : Prim) (b : Bool) (s : State) : RecordsNoTime s (startPrim p b s) := by
  unfold startPrim
  split
  · exact .of_eq rfl rfl
  · split
    · exact .of_eq rfl rfl
    · exact ⟨rfl, _, rfl, rfl⟩

theorem recordsNoTime_nextSegment (r r2 : Segment) (s : State) : RecordsNoTime s (nextSegment r r2 s) := by
  unfold nextSegment
  split
  · exact .of_eq rfl rfl
  · exact ⟨rfl, _, rfl, rfl⟩

theorem recordsNoTime_sampleFor (k : Smp) (s : State) : RecordsNoTime s (sampleFor k s) := by
  cases k with
  | none => exact .of_eq rfl rfl
  | presence => exact ⟨rfl, _, rfl, rfl⟩
  | bit => exact ⟨rfl, _, rfl, rfl⟩

theorem recordsNoTime_measureNext (s : State) : RecordsNoTime s (measureNext s) := by
  rcases measureNext_cases s with
    ⟨-, e⟩ | ⟨-, -, e⟩ | ⟨-, e⟩ | ⟨m, d, e, -⟩ | ⟨-, e⟩ | ⟨-, e⟩ | ⟨-, e⟩ | ⟨-, e⟩ <;> rw [e]
  · exact .of_eq rfl rfl
  · exact ⟨rfl, _, rfl, rfl⟩
  · exact .of_eq rfl rfl
  all_goals exact recordsNoTime_startPrim _ _ _

theorem recordsNoTime_primDone (s : State) : RecordsNoTime s (primDone s) := by
  rcases primDone_cases s with ⟨-, -, e⟩ | ⟨-, -, e⟩ | ⟨-, e⟩ <;> rw [e]
  · exact recordsNoTime_startPrim _ _ _
  · exact recordsNoTime_startPrim _ _ _
  · exact recordsNoTime_measureNext _

/-- From `s` to `t` the trace was only lengthened, by `n` µs. -/
def TraceGrows (n : Nat) (s t : State) : Prop :=
  (∃ evs, fullTrace t = s.trace ++ evs) ∧ elapsed (fullTrace t) = elapsed (fullTrace s) + n

theorem traceGrows_of_fullTrace {n : Nat} {s t : State} {evs : List Event}
    (h : fullTrace t = fullTrace s ++ evs) (hn : elapsed evs = n) : TraceGrows n s t := by
  obtain ⟨more, hs⟩ := fullTrace_extends_trace s
  exact ⟨⟨more ++ evs, by rw [h, hs, List.append_assoc]⟩, by rw [h, elapsed_append, hn]⟩

/-- What takes no time after the trace grew leaves it grown as much. -/
theorem TraceGrows.then_recordsNoTime {n : Nat} {s u t : State} (hu : ∃ evs, u.trace = s.trace ++ evs)
    (hn : elapsed (fullTrace u) = elapsed (fullTrace s) + n) (h : RecordsNoTime u t) : TraceGrows n s t := by
  obtain ⟨before, hu⟩ := hu
  obtain ⟨hc, evs, ht, hnone⟩ := h
  obtain ⟨more, hfull⟩ := fullTrace_extends_trace t
  refine ⟨⟨before ++ evs ++ more, by rw [hfull, ht, hu]; simp⟩, ?_⟩
  rw [elapsed_fullTrace t, ht, elapsed_append, hc, hnone, Nat.add_zero, ← elapsed_fullTrace, hn]

theorem elapsed_fullTrace_passTick (s : State) : elapsed (fullTrace (passTick s)) = elapsed (fullTrace s) + 1 := by
  rw [elapsed_fullTrace, elapsed_fullTrace, passTick_trace, passTick_cur, Nat.add_assoc]

theorem fullTrace_flush (s : State) : fullTrace (flush s) = fullTrace s := by
  rw [fullTrace_of_cur_eq_zero (flush_cur s), flush_trace]

theorem fullTrace_hostMoves (s : State) : fullTrace (hostMoves s) = fullTrace s := by
  rw [fullTrace, fullTrace, hostMoves_cur, hostMoves_trace]

theorem traceGrows_passTick (s : State) : TraceGrows 1 s (passTick s) :=
  ⟨fullTrace_extends_trace (passTick s), elapsed_fullTrace_passTick s⟩

theorem TraceGrows.of_hostMoves {n : Nat} {s t : State} (h : TraceGrows n (hostMoves s) t) : TraceGrows n s t := by
  unfold TraceGrows at h ⊢
  rwa [fullTrace_hostMoves, hostMoves_trace] at h

/-- A tick lasts 1 µs, whatever it ends (R30). -/
theorem traceGrows_tick {s t : State} (h : tick s = .next t) : TraceGrows 1 s t := by
  have hpre : ∃ evs, (flush (passTick s)).trace = s.trace ++ evs := by
    rw [flush_trace]
    exact fullTrace_extends_trace (passTick s)
  have htime : elapsed (fullTrace (flush (passTick s))) = elapsed (fullTrace s) + 1 := by
    rw [fullTrace_flush, elapsed_fullTrace_passTick]
  rcases tick_cases h with ⟨-, rfl⟩ | ⟨-, r, r2, -, -, -, rfl⟩ | ⟨-, r, -, -, rfl⟩
  · exact traceGrows_passTick s
  · exact .then_recordsNoTime hpre htime ((recordsNoTime_sampleFor _ _).trans (recordsNoTime_nextSegment _ _ _))
  · exact .then_recordsNoTime hpre htime ((recordsNoTime_sampleFor _ _).trans (recordsNoTime_primDone _))

/-- `rst` takes no time, and drives the line high where it was low (R220). -/
theorem traceGrows_takeRst (s : State) : TraceGrows 0 s (takeRst s) := by
  have hfull : fullTrace (takeRst s) = fullTrace s ++ if s.owOut = .L then [.drv .H] else [] := by
    rw [fullTrace_of_cur_eq_zero rfl, takeRst]
    split <;> simp
  exact traceGrows_of_fullTrace hfull (by split <;> rfl)

/-- Settles O43: a tick lasts 1 µs, everything else a step does none, and each only appends. -/
theorem traceOnlyGrows : Obligations.TraceOnlyGrows := by
  intro s t h
  suffices hgrows :
      TraceGrows (if (portNow s).rst = false ∧ (s.busy = true ∨ fetch s = .nothing) then 1 else 0) s t by
    rwa [flush_trace]
  rcases step_cases h with ⟨hr, rfl⟩ | ⟨hr, hb, ht⟩ | ⟨hr, hb, hf, rfl⟩ | ⟨hr, hb, i, hf, ht⟩ | ⟨hr, hb, e, hf, rfl⟩
  · rw [if_neg (by simp [hr])]
    exact traceGrows_takeRst s
  · rw [if_pos ⟨hr, .inl hb⟩]
    exact (traceGrows_tick ht).of_hostMoves
  · rw [if_pos ⟨hr, .inr hf⟩]
    exact (traceGrows_passTick _).of_hostMoves
  · rw [if_neg (by simp [hb, hf])]
    obtain ⟨-, htrace⟩ := exec_opens_slot (by simpa using hb) ht
    exact (traceGrows_of_fullTrace htrace rfl).of_hostMoves
  · rw [if_neg (by simp [hb, hf])]
    have htrace : fullTrace (takeError .illegalCommand (hostMoves s)) = fullTrace (hostMoves s) := fullTrace_flush _
    exact (traceGrows_of_fullTrace (evs := []) (by rw [htrace, List.append_nil]) rfl).of_hostMoves

end Sys2Proof.Machine
end


section
/-! SUPPORT. Proofs: the ticks of every command and its command rule agree (spec/10_state.md R34). -/

namespace Sys2Proof.Machine

/-! ## Ticks and command rules agree (R34) -/

@[simp] theorem wordTaken_cur (s : State) : (wordTaken s).cur = 0 := flush_cur s
@[simp] theorem wordTaken_host (s : State) : (wordTaken s).host = s.host := flush_host s

/-- The block right after `Begin`: the data the command rule starts from, at a position of its own. -/
theorem beginCmd_wordTaken_placed (o : OpCode) (a : Byte) (s : State) :
    beginCmd o a (wordTaken s) = placed (beginCmd o a (wordTaken s)) (cmdBegin o a s) := rfl

@[simp] theorem writeByteSlots_errInd (d : Byte) (s : State) : (writeByteSlots d s).errInd = s.errInd :=
  foldl_leaves State.errInd (fun j => writeSlot (d.getLsbD j)) (by simp [writeSlot]) _ { s with shreg := d }

@[simp] theorem readByteSlots_errInd (s : State) : (readByteSlots s).errInd = s.errInd :=
  foldl_leaves State.errInd readSlot (by simp [readSlot]) _ { s with shreg := 0 }

/-- `Finish` leaves `DATA` to every command that is no read (R33). -/
theorem finishData_kept {s : State} (hop : s.op ≠ .rbit ∧ s.op ≠ .rbyte) : { s with data := finishData s } = s := by
  rw [finishData, if_neg (by simp [hop])]

/-- `Finish` of a read command is its rule's `DATA <- SHREG` (R33). -/
theorem finishData_read {s : State} (hop : s.op = .rbit ∨ s.op = .rbyte) :
    { s with data := finishData s } = shregToData s := by
  rw [finishData, if_pos hop, shregToData]

/-- The end of a lone command (R31, R33), as its command rule has it. -/
theorem measureNext_slotsDone_placed (p : Prim) (b : Bool) (sg : Fin 3) (h : List PortIn) {q w : State}
    (hm : q.mstep = .idle) (he : w.errInd = false) :
    measureNext (slotsDone p b sg h (placed q w)) = { cmdEnd { w with data := finishData w } with host := h } := by
  have hfinish : measureNext (slotsDone p b sg h (placed q w)) = finish (slotsDone p b sg h (placed q w)) := by
    rw [measureNext, show (slotsDone p b sg h (placed q w)).mstep = .idle from hm]
  cases w with | mk =>
  dsimp only at he
  subst he
  exact hfinish

/-- An accepted command that runs its ticks and ends completes. -/
theorem completesIn_of_busyFor {i : Instr} {s u : State} {n : Nat} {start : State → State} (hb : s.busy = false)
    (hexec : exec i s = acceptCmd start s) (hrun : BusyFor n (start (wordTaken s)) u) (hu : u.busy = false) :
    CompletesIn i s n u := by
  have ht : exec i s = .next (start (wordTaken s)) := hexec.trans (acceptCmd_of_idle start hb)
  obtain ⟨-, -, hbusy, hdone, -⟩ := exec_frame hb ht
  exact ⟨_, ht, hbusy, hdone, hrun, hu⟩

/-- A lone command completes: its slots `f`, which do not see the position, run from the position `x` that acceptance
gives the data `w`, and the last of them hands over to `Finish`. -/
theorem completesIn_lone {i : Instr} {s x w u : State} {n : Nat} {start : State → State} {p : Prim} {b : Bool}
    {sg : Fin 3} (f : State → State) (hb : s.busy = false) (hexec : exec i s = acceptCmd start s)
    (hx : x = placed x w) (hf : ∀ q v, f (placed q v) = placed q (f v)) (hm : x.mstep = .idle)
    (hh : x.host = s.host) (he : (f w).errInd = false) (hu : cmdEnd { f w with data := finishData (f w) } = u)
    (hrun : BusyFor n (start (wordTaken s)) (measureNext (slotsDone p b sg (hostAfterBusy n x.host) (f x)))) :
    CompletesIn i s n { u with host := hostAfterBusy n s.host } := by
  have hplaced : f x = placed x (f w) := (congrArg f hx).trans (hf x w)
  rw [hplaced, measureNext_slotsDone_placed p b sg _ hm he, hu, hh] at hrun
  refine completesIn_of_busyFor hb hexec hrun ?_
  rw [← hu]
  rfl

theorem exec_reset_eq (s : State) :
    exec .reset s = acceptCmd (fun u => startPrim .reset false (beginCmd .reset 0 u)) s := rfl

theorem exec_wbit_eq (b : Bool) (s : State) :
    exec (.wbit b) s = acceptCmd (fun u => startPrim .wbit b (beginCmd .wbit (bitByte b) u)) s := rfl

theorem exec_rbit_eq (s : State) :
    exec .rbit s = acceptCmd (fun u => startPrim .rbit false { beginCmd .rbit 0 u with shreg := 0 }) s := rfl

theorem exec_rbyte_eq (s : State) : exec .rbyte s = acceptCmd (fun u => startRByte (beginCmd .rbyte 0 u)) s := rfl

theorem exec_measure_eq (s : State) :
    exec .measure s
      = acceptCmd
          (fun u => startPrim .reset false { clearResults (beginCmd .measure 0 u) with mstep := .reset1 }) s := rfl

/-- `RESET` (R121). -/
theorem completesIn_reset {s : State} (hb : s.busy = false) (hr : noRstFor 1070 s.host = true) :
    CompletesIn .reset s 1070 { cmdReset s with host := hostAfterBusy 1070 s.host } := by
  have hrun := busyFor_resetSlot (s := beginCmd .reset 0 (wordTaken s)) rfl (by simp) (by simpa using hr)
  rw [primDone_lone_slotEnd _ _ _ _ (by simp)] at hrun
  refine completesIn_lone resetSlot hb (exec_reset_eq s) (beginCmd_wordTaken_placed _ _ s) resetSlot_placed rfl
    (by simp) rfl ?_ hrun
  rw [finishData_kept (by simp [cmdBegin])]
  rfl

/-- `WBIT b` (R124). -/
theorem completesIn_wbit (b : Bool) {s : State} (hb : s.busy = false) (hr : noRstFor 65 s.host = true) :
    CompletesIn (.wbit b) s 65 { cmdWbit b s with host := hostAfterBusy 65 s.host } := by
  have hrun := busyFor_writeSlot (s := beginCmd .wbit (bitByte b) (wordTaken s)) b rfl (by simp) (by simpa using hr)
  rw [primDone_lone_slotEnd _ _ _ _ (by simp)] at hrun
  refine completesIn_lone (writeSlot b) hb (exec_wbit_eq b s) (beginCmd_wordTaken_placed _ _ s) (writeSlot_placed b) rfl
    (by simp) rfl ?_ hrun
  rw [finishData_kept (by simp [cmdBegin])]
  rfl

/-- `RBIT` (R125). -/
theorem completesIn_rbit {s : State} (hb : s.busy = false) (hr : noRstFor 64 s.host = true) :
    CompletesIn .rbit s 64 { cmdRbit s with host := hostAfterBusy 64 s.host } := by
  have hrun := busyFor_readSlot (s := { beginCmd .rbit 0 (wordTaken s) with shreg := 0 }) rfl (by simp)
    (by simpa using hr)
  rw [primDone_lone_slotEnd _ _ _ _ (by simp)] at hrun
  refine completesIn_lone (w := { cmdBegin .rbit 0 s with shreg := 0 }) (readSlot 0) hb (exec_rbit_eq s) rfl
    (readSlot_placed 0) rfl (by simp) rfl ?_ hrun
  rw [finishData_read (by simp [cmdBegin])]
  rfl

/-- `WBYTE d` (R141), as any instruction that sends `d`. -/
theorem completesIn_wbyte {i : Instr} {d : Byte} {s : State} (hi : exec i s = acceptWByte d s) (hb : s.busy = false)
    (hr : noRstFor 520 s.host = true) :
    CompletesIn i s 520 { cmdWbyte d s with host := hostAfterBusy 520 s.host } := by
  have hrun := busyFor_writeByte (s := beginCmd .wbyte d (wordTaken s)) d rfl (by simp) (by simpa using hr)
  refine completesIn_lone (writeByteSlots d) hb hi (beginCmd_wordTaken_placed _ _ s) (writeByteSlots_placed d) rfl
    (by simp) (by simp [cmdBegin]) ?_ hrun
  rw [finishData_kept (by simp [cmdBegin]), cmdWbyte]

/-- `RBYTE` (R143). -/
theorem completesIn_rbyte {s : State} (hb : s.busy = false) (hr : noRstFor 512 s.host = true) :
    CompletesIn .rbyte s 512 { cmdRbyte s with host := hostAfterBusy 512 s.host } := by
  have hrun := busyFor_readByte (s := beginCmd .rbyte 0 (wordTaken s)) rfl (by simp) (by simpa using hr)
  refine completesIn_lone readByteSlots hb (exec_rbyte_eq s) (beginCmd_wordTaken_placed _ _ s) readByteSlots_placed rfl
    (by simp) (by simp [cmdBegin]) ?_ hrun
  rw [finishData_read (by simp [cmdBegin]), cmdRbyte]

/-! ## `MEASURE` (R150, R151) -/

/-- The first reset slot of a `MEASURE`, from its acceptance (R150, step 1). -/
theorem between_measureStep1 {s : State} (hr : noRstFor 1070 s.host = true) :
    ∃ y, BusyFor 1070 (startPrim .reset false
          { clearResults (beginCmd .measure 0 (wordTaken s)) with mstep := .reset1 }) (measureNext y)
      ∧ Between .reset1 (hostAfterBusy 1070 s.host) (measureStep1 s) y := by
  have hstart : Between .reset1 s.host (clearResults (cmdBegin .measure 0 s))
      { clearResults (beginCmd .measure 0 (wordTaken s)) with mstep := .reset1 } :=
    ⟨{ clearResults (beginCmd .measure 0 (wordTaken s)) with mstep := .reset1 }, rfl, rfl, rfl, rfl, by simp⟩
  exact between_resetSlot (by simp [cmdBegin]) hstart hr

/-- A `MEASURE` that found no device ends as the command rule says. -/
theorem busyFor_fails {m : MStep} {h : List PortIn} {n : Nat} {w t y : State} (hrun : BusyFor n t (measureNext y))
    (hy : Between m h w y) (hm : m = .reset1 ∨ m = .reset2) (hp : w.presence = false) (hop : w.op = .measure) :
    BusyFor n t { cmdNotPresent w with host := h } := by
  rw [measureNext_absent (by rw [hy.mstep_eq]; exact hm) (hy.presence_eq.trans hp),
    takeError_notPresent_between hy hop] at hrun
  exact hrun

@[simp] theorem resetSlot_errInd (s : State) : (resetSlot s).errInd = s.errInd := by simp [resetSlot]

@[simp] theorem measureStep1_cur (s : State) : (measureStep1 s).cur = 0 := by simp [measureStep1, cmdBegin]
@[simp] theorem measureStep1_op (s : State) : (measureStep1 s).op = .measure := by simp [measureStep1, cmdBegin]
@[simp] theorem measureStep1_errInd (s : State) : (measureStep1 s).errInd = false := by simp [measureStep1, cmdBegin]

@[simp] theorem measureSteps24_cur (s : State) : (measureSteps24 s).cur = s.cur := by simp [measureSteps24]
@[simp] theorem measureSteps24_op (s : State) : (measureSteps24 s).op = s.op := by simp [measureSteps24]
@[simp] theorem measureSteps24_errInd (s : State) : (measureSteps24 s).errInd = s.errInd := by simp [measureSteps24]

/-- How long a `MEASURE` that succeeds takes (R154), cut where its pieces end. -/
theorem measureDuration_success {s : State} (h1 : (measureStep1 s).presence = true)
    (h2 : (measureSteps24 (measureStep1 s)).presence = true) :
    measureDuration s = 1070 + (520 + (520 + (tConv + 1070)) + (520 + (520 + (512 + 512)))) := by
  rw [measureDuration, if_pos h1, if_pos h2]
  rfl

/-- How long it takes to fail at the second reset (R152). -/
theorem measureDuration_secondExit {s : State} (h1 : (measureStep1 s).presence = true)
    (h2 : (measureSteps24 (measureStep1 s)).presence = false) :
    measureDuration s = 1070 + (520 + (520 + (tConv + 1070))) := by
  rw [measureDuration, if_pos h1, if_neg (by simp [h2])]
  rfl

/-- How long it takes to fail at the first reset (R151). -/
theorem measureDuration_firstExit {s : State} (h1 : (measureStep1 s).presence = false) : measureDuration s = 1070 := by
  rw [measureDuration, if_neg (by simp [h1])]
  rfl

/-- The last steps of a `MEASURE` (R150, steps 5 to 8), in ticks and as the command rule has them. -/
theorem busyFor_succeeds {h : List PortIn} {w x : State} (hc : w.cur = 0) (hx : Between .reset2 h w x)
    (hp : w.presence = true) (hop : w.op = .measure) (he : w.errInd = false)
    (hr : noRstFor (520 + (520 + (512 + 512))) h = true) :
    BusyFor (520 + (520 + (512 + 512))) (measureNext x)
      { cmdEnd (measureSteps58 w) with host := hostAfterBusy (520 + (520 + (512 + 512))) h } := by
  obtain ⟨y, hrun, hy, hey⟩ := between_steps58 hc hx hp hr
  have hsame : y.errInd = (cmdEnd (measureSteps58 w)).errInd := by
    simp [hey, cmdEnd, measureSteps58, keepLsb, keepMsb, he]
  rw [finish_decoded_between hy (by simp [keepLsb, hop]), hsame] at hrun
  exact hrun

/-- A `MEASURE` that finds no device at its first reset (R151). -/
theorem completesIn_measure_firstExit {s : State} (hb : s.busy = false) (h1 : (measureStep1 s).presence = false)
    (hr : noRstFor 1070 s.host = true) :
    CompletesIn .measure s 1070 { cmdMeasure s with host := hostAfterBusy 1070 s.host } := by
  obtain ⟨y, hrun, hy⟩ := between_measureStep1 hr
  have hend := busyFor_fails hrun hy (.inl rfl) h1 (measureStep1_op s)
  rw [cmdMeasure, if_neg (by simp [h1])]
  exact completesIn_of_busyFor hb (exec_measure_eq s) hend rfl

/-- A `MEASURE` that finds a device at its first reset and none at its second (R151, R152). -/
theorem completesIn_measure_secondExit {s : State} (hb : s.busy = false) (h1 : (measureStep1 s).presence = true)
    (h2 : (measureSteps24 (measureStep1 s)).presence = false) {n : Nat} (hn : n = 520 + (520 + (tConv + 1070)))
    (hr : noRstFor (1070 + n) s.host = true) :
    CompletesIn .measure s (1070 + n) { cmdMeasure s with host := hostAfterBusy (1070 + n) s.host } := by
  obtain ⟨r1, r2⟩ := noRstFor_split hr
  obtain ⟨y, hrun, hy⟩ := between_measureStep1 r1
  obtain ⟨z, hrun', hz⟩ := between_steps24 tConv rfl (by decide) (by decide) (measureStep1_cur s) hy h1 (hn ▸ r2)
  rw [← hn] at hrun' hz
  have hend := busyFor_fails (busyFor_trans hrun hrun') hz (.inr rfl) h2 (by simp)
  rw [cmdMeasure, if_pos h1, if_neg (by simp [h2]), hostAfterBusy_add]
  exact completesIn_of_busyFor hb (exec_measure_eq s) hend rfl

/-- A `MEASURE` that finds a device at both resets (R150). -/
theorem completesIn_measure_success {s : State} (hb : s.busy = false) (h1 : (measureStep1 s).presence = true)
    (h2 : (measureSteps24 (measureStep1 s)).presence = true) {n m : Nat} (hn : n = 520 + (520 + (tConv + 1070)))
    (hm : m = 520 + (520 + (512 + 512))) (hr : noRstFor (1070 + (n + m)) s.host = true) :
    CompletesIn .measure s (1070 + (n + m)) { cmdMeasure s with host := hostAfterBusy (1070 + (n + m)) s.host } := by
  obtain ⟨r1, r⟩ := noRstFor_split hr
  obtain ⟨r2, r3⟩ := noRstFor_split r
  obtain ⟨y, hrun, hy⟩ := between_measureStep1 r1
  obtain ⟨z, hrun', hz⟩ := between_steps24 tConv rfl (by decide) (by decide) (measureStep1_cur s) hy h1 (hn ▸ r2)
  rw [← hn] at hrun' hz
  have hlast := busyFor_succeeds (by simp) hz h2 (by simp) (by simp) (hm ▸ r3)
  rw [← hm] at hlast
  have hend := busyFor_trans hrun (busyFor_trans hrun' hlast)
  rw [cmdMeasure, if_pos h1, if_pos h2, hostAfterBusy_add, hostAfterBusy_add]
  exact completesIn_of_busyFor hb (exec_measure_eq s) hend rfl

/-- `MEASURE`, by what its two resets find (R150, R151). -/
theorem completesIn_measure {s : State} (hb : s.busy = false) (hr : noRstFor (measureDuration s) s.host = true) :
    CompletesIn .measure s (measureDuration s)
      { cmdMeasure s with host := hostAfterBusy (measureDuration s) s.host } := by
  rcases Bool.eq_false_or_eq_true (measureStep1 s).presence with h1 | h1
  · rcases Bool.eq_false_or_eq_true (measureSteps24 (measureStep1 s)).presence with h2 | h2
    · rw [measureDuration_success h1 h2] at hr ⊢
      exact completesIn_measure_success hb h1 h2 rfl rfl hr
    · rw [measureDuration_secondExit h1 h2] at hr ⊢
      exact completesIn_measure_secondExit hb h1 h2 rfl hr
  · rw [measureDuration_firstExit h1] at hr ⊢
    exact completesIn_measure_firstExit hb h1 hr

/-- Settles O23, command by command: each runs its rule's slots in ticks, and ends as the rule says. -/
theorem ticksAgreeWithTheCommandRules : Obligations.TicksAgreeWithTheCommandRules := by
  intro i s hb hr
  cases i with
  | reset => exact completesIn_reset hb hr
  | wbit b => exact completesIn_wbit b hb hr
  | wbyte d => exact completesIn_wbyte rfl hb hr
  | rbit => exact completesIn_rbit hb hr
  | rbyte => exact completesIn_rbyte hb hr
  | measure => exact completesIn_measure hb hr
  | skipRom => exact completesIn_wbyte rfl hb hr
  | convertT => exact completesIn_wbyte rfl hb hr
  | readSp => exact completesIn_wbyte rfl hb hr

end Sys2Proof.Machine
end

section
/-! SUPPORT. Proofs: what a slot samples is the environment's answer, and what an empty line answers
(spec/20_memory.md R61, R62, R81). -/

namespace Sys2Proof.Machine

/-! ## A sample is the environment's answer (R61, R62) -/

/-- A released line shows the environment's level (R61). -/
@[simp] theorem wiredAnd_released (v : Level) : wiredAnd .H v = v := by cases v <;> rfl

/-- With the master's output released, `Sample()` is the environment's answer (R62). -/
theorem sampledLevel_of_released {s : State} (hl : s.owOut = .H) :
    sampledLevel s = envAnswer s.env s.trace s.choice := by
  rw [sampledLevel, hl, wiredAnd_released]

/-- Every segment that samples holds the line released (R120). -/
theorem segTable_level_of_samples {p : Prim} {b : Bool} {sg : Fin 3} {r : Segment} (h : segTable p b sg = some r)
    (hk : r.smp ≠ .none) : r.level = .H := by
  unfold segTable at h
  split at h <;> cases h <;> simp_all

/-- Settles O44: the invariant puts the segment's level on the line, and a segment that samples is a released one. -/
theorem samplesAreTheEnvironments : Obligations.SamplesAreTheEnvironments := by
  intro s r hinv hb hr hk
  obtain ⟨-, r', hr', hlevel, -, -⟩ := hinv.running hb
  obtain rfl : r' = r := Option.some.inj (hr'.symm.trans hr)
  have hreleased : (flush s).owOut = .H := by
    rw [flush_owOut, hlevel, segTable_level_of_samples hr hk]
  rw [sampledLevel_of_released hreleased, flush_env, flush_choice]

/-! ## The slots that sample, each as one update of the state (R121, R125) -/

/-- A reset slot: `PRESENCE` from the environment's answer, the trace of R121, the line released. -/
theorem resetSlot_eq (s : State) :
    resetSlot s
      = { s with
          presence := presenceOf (resetAnswer s.env s.trace s.choice)
          owOut := .H
          trace := s.trace ++ resetTrace (resetAnswer s.env s.trace s.choice)
          choice := s.choice + 1 } := by
  have hsample : sampledLevel (waitUs tRsts (drive .H (waitUs tRstl (drive .L s))))
      = resetAnswer s.env s.trace s.choice := by
    rw [sampledLevel_of_released (by rfl)]
    simp [resetAnswer]
  rw [resetSlot, samplePresence, recordSample, hsample]
  simp [waitUs, drive, resetTrace]

/-- A read slot: bit `i` of `SHREG` from the environment's answer, the trace of R125, the line released. -/
theorem readSlot_eq (i : Nat) (s : State) :
    readSlot i s
      = { s with
          shreg := s.shreg ||| (bitByte (bitOf (readAnswer s.env s.trace s.choice)) <<< i)
          owOut := .H
          trace := s.trace ++ readTrace (readAnswer s.env s.trace s.choice)
          choice := s.choice + 1 } := by
  have hsample : sampledLevel (waitUs tRds (drive .H (waitUs tRdl (drive .L s))))
      = readAnswer s.env s.trace s.choice := by
    rw [sampledLevel_of_released (by rfl)]
    simp [readAnswer]
  rw [readSlot, sampleBit, recordSample, hsample]
  simp [waitUs, drive, readTrace]

@[simp] theorem readSlot_env (i : Nat) (s : State) : (readSlot i s).env = s.env := by rw [readSlot_eq]

/-! ## An empty line (R81) -/

@[simp] theorem resetAnswer_absent (tr : List Event) (choice : Nat) : resetAnswer .absent tr choice = .H := rfl
@[simp] theorem readAnswer_absent (tr : List Event) (choice : Nat) : readAnswer .absent tr choice = .H := rfl

/-- Read slots on an empty line set their bits of `SHREG`, one after the other. -/
theorem foldl_readSlot_shreg_of_absent (js : List Nat) {s : State} (he : s.env = .absent) :
    (js.foldl (fun u j => readSlot j u) s).shreg = js.foldl (fun (d : Byte) j => d ||| ((1 : Byte) <<< j)) s.shreg := by
  induction js generalizing s with
  | nil => rfl
  | cons j js ih =>
    have hbit : (readSlot j s).shreg = s.shreg ||| ((1 : Byte) <<< j) := by
      rw [readSlot_eq, he, readAnswer_absent]
      rfl
    rw [List.foldl_cons, List.foldl_cons, ih ((readSlot_env j s).trans he), hbit]

/-- A byte read from an empty line is 0xFF (R81). -/
theorem readByteSlots_shreg_of_absent {s : State} (he : s.env = .absent) : (readByteSlots s).shreg = 0xFF := by
  have hbits : (List.range 8).foldl (fun (d : Byte) j => d ||| ((1 : Byte) <<< j)) 0 = 0xFF := by decide
  exact (foldl_readSlot_shreg_of_absent (List.range 8) (s := { s with shreg := 0 }) he).trans hbits

@[simp] theorem cmdBegin_env (o : OpCode) (a : Byte) (s : State) : (cmdBegin o a s).env = s.env := flush_env s

/-- The first reset of a `MEASURE` on an empty line finds no device (R81, R151). -/
theorem measureStep1_presence_of_absent {s : State} (he : s.env = .absent) : (measureStep1 s).presence = false := by
  simp [measureStep1, resetSlot_eq, clearResults, he, presenceOf]

/-- What the first reset slot of a `MEASURE` on an empty line leaves in the trace (R121, R151). -/
theorem measureStep1_trace_of_absent {s : State} (he : s.env = .absent) :
    (measureStep1 s).trace = fullTrace s ++ resetTrace .H := by
  simp [measureStep1, resetSlot_eq, clearResults, cmdBegin, he]

/-- On an empty line `MEASURE` takes its first exit (R81, R151). -/
theorem cmdMeasure_of_absent {s : State} (he : s.env = .absent) : cmdMeasure s = cmdNotPresent (measureStep1 s) := by
  rw [cmdMeasure, if_neg (by simp [measureStep1_presence_of_absent he])]

/-- Settles O30: on an empty line every slot that samples is answered `H`, and `MEASURE` takes its first exit. -/
theorem absentLineReadsOnes : Obligations.AbsentLineReadsOnes := by
  intro s he
  have hreset : (cmdReset s).presence = false := by
    simp [cmdReset, cmdEnd, resetSlot_eq, he, presenceOf]
  have hbit : (cmdRbit s).data = 1 := by
    simp [cmdRbit, cmdEnd, shregToData, readSlot_eq, he, bitOf, bitByte]
  have hbyte : (cmdRbyte s).data = 0xFF := by
    simp [cmdRbyte, cmdEnd, shregToData, readByteSlots_shreg_of_absent, he]
  rw [cmdMeasure_of_absent he]
  refine ⟨hreset, hbit, hbyte, rfl, rfl, ?_, ?_⟩
  · simp [cmdNotPresent, cmdEnd, measureStep1, resetSlot_eq, clearResults]
  · have hcur : (cmdNotPresent (measureStep1 s)).cur = 0 := measureStep1_cur s
    have htrace : (cmdNotPresent (measureStep1 s)).trace = (measureStep1 s).trace ++ [.ntf] := rfl
    rw [fullTrace_of_cur_eq_zero hcur, htrace, measureStep1_trace_of_absent he, List.append_assoc]
    rfl

end Sys2Proof.Machine
end


section
/-! SUPPORT. Proofs: a host's program runs word by word (spec/20_memory.md R74; spec/70_reset_and_hazards.md R237). -/

namespace Sys2Proof.Machine

/-! ## A host that holds its words (R234, R237) -/

/-- What the host presents in each tick of a gap. -/
def gapPort : PortIn := ⟨false, false, .word 0, 0, true⟩

/-- What the host presents once the gap of an entry is over: its word, held. -/
def wordPort (c : CmdIn) : PortIn := ⟨false, true, c, 0, true⟩

theorem issuePorts_eq (p : Issue) : issuePorts p = List.replicate p.gap gapPort ++ [wordPort p.cmd] := rfl

theorem programPorts_cons (p : Issue) (ps : List Issue) :
    programPorts (p :: ps) = issuePorts p ++ programPorts ps := List.flatMap_cons

/-- Every entry of the host's list is held until the block is ready, and none of them is `rst`. -/
def Held (h : List PortIn) : Prop := ∀ q ∈ h, q.rst = false ∧ q.hold = true

theorem held_programPorts (ps : List Issue) : Held (programPorts ps) := by
  intro q hq
  obtain ⟨p, -, hq⟩ := List.mem_flatMap.mp hq
  rcases List.mem_append.mp hq with hgap | hword
  · rw [List.eq_of_mem_replicate hgap]
    exact ⟨rfl, rfl⟩
  · rw [List.mem_singleton.mp hword]
    exact ⟨rfl, rfl⟩

theorem Held.hostAfterBusyTick {h : List PortIn} (hh : Held h) : hostAfterBusyTick h = h := by
  cases h with
  | nil => rfl
  | cons q qs => exact if_pos (hh q (by simp)).2

/-- A busy block leaves a held list as it is, however long it is busy. -/
theorem Held.hostAfterBusy {h : List PortIn} (hh : Held h) (n : Nat) : hostAfterBusy n h = h := by
  induction n with
  | zero => rfl
  | succ n ih => rw [Machine.hostAfterBusy, hh.hostAfterBusyTick, ih]

theorem Held.noRstFor {h : List PortIn} (hh : Held h) (n : Nat) : noRstFor n h = true := by
  have hfirst : (h.headD PortIn.quiet).rst = false := by
    cases h with
    | nil => rfl
    | cons q qs => exact (hh q (by simp)).1
  induction n with
  | zero => rfl
  | succ n ih => rw [Machine.noRstFor, hh.hostAfterBusyTick, hfirst, ih]; rfl

/-! ## The command rules do not see the host's list -/

theorem writeByteSlots_setHost (d : Byte) (h : List PortIn) (s : State) :
    writeByteSlots d (setHost h s) = setHost h (writeByteSlots d s) :=
  List.foldl_hom (setHost h) (init := { s with shreg := d }) fun _ _ => rfl

theorem readByteSlots_setHost (h : List PortIn) (s : State) :
    readByteSlots (setHost h s) = setHost h (readByteSlots s) :=
  List.foldl_hom (setHost h) (init := { s with shreg := 0 }) fun _ _ => rfl

theorem cmdBegin_setHost (o : OpCode) (a : Byte) (h : List PortIn) (s : State) :
    cmdBegin o a (setHost h s) = setHost h (cmdBegin o a s) := by
  rw [cmdBegin, flush_setHost]
  rfl

theorem cmdWbyte_setHost (d : Byte) (h : List PortIn) (s : State) :
    cmdWbyte d (setHost h s) = setHost h (cmdWbyte d s) := by
  rw [cmdWbyte, cmdBegin_setHost, writeByteSlots_setHost]
  rfl

theorem measureStep1_setHost (h : List PortIn) (s : State) :
    measureStep1 (setHost h s) = setHost h (measureStep1 s) := by
  rw [measureStep1, cmdBegin_setHost]
  rfl

theorem measureSteps24_setHost (h : List PortIn) (s : State) :
    measureSteps24 (setHost h s) = setHost h (measureSteps24 s) := by
  rw [measureSteps24, writeByteSlots_setHost, writeByteSlots_setHost]
  rfl

theorem keepLsb_setHost (h : List PortIn) (s : State) : keepLsb (setHost h s) = setHost h (keepLsb s) := rfl

theorem measureSteps58_setHost (h : List PortIn) (s : State) :
    measureSteps58 (setHost h s) = setHost h (measureSteps58 s) := by
  rw [measureSteps58, writeByteSlots_setHost, writeByteSlots_setHost, readByteSlots_setHost, keepLsb_setHost,
    readByteSlots_setHost]
  rfl

theorem cmdMeasure_setHost (h : List PortIn) (s : State) :
    cmdMeasure (setHost h s) = setHost h (cmdMeasure s) := by
  have hpresence : ∀ u, (setHost h u).presence = u.presence := fun _ => rfl
  rw [cmdMeasure, measureStep1_setHost, measureSteps24_setHost, measureSteps58_setHost, hpresence, hpresence,
    cmdMeasure]
  split
  · split <;> rfl
  · rfl

theorem runCmd_setHost (i : Instr) (h : List PortIn) (s : State) :
    runCmd i (setHost h s) = setHost h (runCmd i s) := by
  cases i with
  | reset => rw [runCmd, cmdReset, cmdBegin_setHost]; rfl
  | wbit b => rw [runCmd, cmdWbit, cmdBegin_setHost]; rfl
  | rbit => rw [runCmd, cmdRbit, cmdBegin_setHost]; rfl
  | rbyte => rw [runCmd, cmdRbyte, cmdBegin_setHost, readByteSlots_setHost]; rfl
  | measure => exact cmdMeasure_setHost h s
  | wbyte d => exact cmdWbyte_setHost d h s
  | skipRom | convertT | readSp => exact cmdWbyte_setHost _ h s

theorem takeError_illegal_setHost (h : List PortIn) (s : State) :
    takeError .illegalCommand (setHost h s) = setHost h (takeError .illegalCommand s) := by
  rw [takeError, flush_setHost]
  rfl

theorem gapOf_setHost (g : Nat) (h : List PortIn) (s : State) : gapOf g (setHost h s) = setHost h (gapOf g s) := by
  unfold gapOf
  split <;> rfl

theorem runIssue_setHost (p : Issue) (h : List PortIn) (s : State) :
    runIssue p (setHost h s) = setHost h (runIssue p s) := by
  unfold runIssue
  rw [gapOf_setHost]
  split
  · exact runCmd_setHost _ h _
  · exact takeError_illegal_setHost h _

theorem runProgram_setHost (ps : List Issue) (h : List PortIn) (s : State) :
    runProgram ps (setHost h s) = setHost h (runProgram ps s) :=
  List.foldl_hom (setHost h) fun u p => runIssue_setHost p h u

/-! ## A program, word by word (R74, R237) -/

@[simp] theorem gapOf_busy (g : Nat) (s : State) : (gapOf g s).busy = s.busy := by
  unfold gapOf
  split <;> rfl

theorem fetch_of_undecoded {s : State} {e : DecodeError} (hv : (portNow s).cmdValid = true)
    (hd : decodeCmd (portNow s).cmd = .error e) : fetch s = .illegal e := by
  rw [fetch, if_pos hv, hd]

/-- The gap of an entry passes, tick by tick, and its word is next (R74). -/
theorem runSteps_gap {p : Issue} {rest : List PortIn} {s : State} (hb : s.busy = false)
    (hh : s.host = issuePorts p ++ rest) :
    runSteps p.gap s = .next (setHost (wordPort p.cmd :: rest) (gapOf p.gap s)) := by
  have hports : s.host = List.replicate p.gap gapPort ++ wordPort p.cmd :: rest := by
    rw [hh, issuePorts_eq, List.append_assoc, List.singleton_append]
  rcases Nat.eq_zero_or_pos p.gap with hg | hg
  · rw [hg, List.replicate_zero, List.nil_append] at hports
    rw [hg, runSteps_zero, ← hports]
    rfl
  · have hquiet : ∀ q ∈ s.host.take p.gap, q.rst = false ∧ q.cmdValid = false := by
      intro q hq
      rw [hports, List.take_left' List.length_replicate] at hq
      rw [List.eq_of_mem_replicate hq]
      exact ⟨rfl, rfl⟩
    rw [idleTicksOnlyPassTime s p.gap hb hg hquiet, hports, List.drop_left' List.length_replicate, gapOf,
      if_neg (by omega)]
    rfl

/-- A legal word next on the port of an idle block is taken, and its command runs to its end (R28, R34). -/
theorem runSteps_legalWord {c : CmdIn} {i : Instr} {rest : List PortIn} {s : State} (hb : s.busy = false)
    (hrest : Held rest) (hd : decodeCmd c = .ok i) :
    ∃ n, runSteps n (setHost (wordPort c :: rest) s) = .next (setHost rest (runCmd i s))
      ∧ (runCmd i s).busy = false := by
  have hstep : step (setHost (wordPort c :: rest) s) = exec i (setHost rest s) :=
    step_of_instr (s := setHost (wordPort c :: rest) s) rfl hb (fetch_of_decoded rfl hd)
  obtain ⟨t, ht, -, -, ⟨hrun, -⟩, hidle⟩ :=
    ticksAgreeWithTheCommandRules i (setHost rest s) hb (hrest.noRstFor _)
  refine ⟨cmdDuration i (setHost rest s) + 1, ?_, ?_⟩
  · rw [runSteps_succ _ (hstep.trans ht), hrun, runCmd_setHost]
    exact congrArg (fun h => Host.Outcome.next (setHost h (runCmd i s))) (hrest.hostAfterBusy _)
  · rw [runCmd_setHost] at hidle
    exact hidle

/-- An illegal word next on the port of an idle block is taken in one step, and the block stays idle (R193). -/
theorem runSteps_illegalWord {c : CmdIn} {e : DecodeError} {rest : List PortIn} {s : State} (hb : s.busy = false)
    (hd : decodeCmd c = .error e) :
    runSteps 1 (setHost (wordPort c :: rest) s) = .next (setHost rest (takeError .illegalCommand s))
      ∧ (takeError .illegalCommand s).busy = false := by
  refine ⟨?_, by simpa [takeError] using hb⟩
  rw [runSteps_one, step_of_illegal (s := setHost (wordPort c :: rest) s) rfl hb (fetch_of_undecoded rfl hd),
    ← takeError_illegal_setHost]
  rfl

/-- One entry of a program: the gap, the word, and what the word starts, to its end. -/
theorem runSteps_issue {p : Issue} {rest : List PortIn} {s : State} (hb : s.busy = false)
    (hh : s.host = issuePorts p ++ rest) (hrest : Held rest) :
    ∃ n, runSteps n s = .next (setHost rest (runIssue p s)) ∧ (runIssue p s).busy = false := by
  have hgap := runSteps_gap hb hh
  have hidle : (gapOf p.gap s).busy = false := (gapOf_busy p.gap s).trans hb
  cases hd : decodeCmd p.cmd with
  | ok i =>
    have hissue : runIssue p s = runCmd i (gapOf p.gap s) := by rw [runIssue, hd]
    obtain ⟨n, hrun, hend⟩ := runSteps_legalWord hidle hrest hd
    rw [hissue]
    exact ⟨p.gap + n, (runSteps_add n hgap).trans hrun, hend⟩
  | error e =>
    have hissue : runIssue p s = takeError .illegalCommand (gapOf p.gap s) := by rw [runIssue, hd]
    obtain ⟨hrun, hend⟩ := runSteps_illegalWord (rest := rest) hidle hd
    rw [hissue]
    exact ⟨p.gap + 1, (runSteps_add 1 hgap).trans hrun, hend⟩

/-- Settles O24, by induction on the program: each entry runs to its end with the rest of the list still held. -/
theorem programsRunCommandByCommand : Obligations.ProgramsRunCommandByCommand := by
  intro ps s hb hh
  induction ps generalizing s with
  | nil => exact ⟨0, by rw [runSteps_zero, ← show s.host = [] from hh]; rfl⟩
  | cons p ps ih =>
    rw [programPorts_cons] at hh
    obtain ⟨a, hfirst, hidle⟩ := runSteps_issue hb hh (held_programPorts ps)
    obtain ⟨b, hrest⟩ := ih (setHost (programPorts ps) (runIssue p s)) hidle rfl
    refine ⟨a + b, ?_⟩
    rw [runSteps_add b hfirst, hrest, runProgram_setHost]
    rfl

end Sys2Proof.Machine
end

section
/-! SUPPORT. Proofs: a command word and its two fields, the rows of the opcode map, and that encoding and decoding agree
(spec/30_encoding.md R90 to R95, R100, R104). -/

namespace Sys2Proof.Machine

/-! ## A word is its two fields (R90) -/

@[simp] theorem opField_packWord (op : BitVec 4) (arg : Byte) : opField (packWord op arg) = op :=
  BitVec.extractLsb'_append_eq_left

@[simp] theorem argField_packWord (op : BitVec 4) (arg : Byte) : argField (packWord op arg) = arg :=
  BitVec.extractLsb'_append_eq_right

theorem packWord_fields (w : CmdWord) : packWord (opField w) (argField w) = w :=
  BitVec.extractLsb'_append_extractLsb'_eq_extractLsb' (by rfl) |>.trans BitVec.extractLsb'_eq_self

theorem packWord_inj {op op' : BitVec 4} {arg arg' : Byte} :
    packWord op arg = packWord op' arg' ↔ op = op' ∧ arg = arg' := by
  refine ⟨fun h => ⟨?_, ?_⟩, fun ⟨ho, ha⟩ => by rw [ho, ha]⟩
  · simpa using congrArg opField h
  · simpa using congrArg argField h

/-! ## Decoding an encoding, and the encoding of what was decoded (R94) -/

/-- The word a host presents for an instruction decodes to it; a pseudo-command is not presented as a word. -/
theorem decodeWord_of_encodeCmd {i : Instr} {w : CmdWord} (h : encodeCmd i = .word w) : decodeWord w = .ok i := by
  cases i with
  | wbit b => cases h; cases b <;> rfl
  | wbyte d =>
    cases h
    rw [encodeWord, decodeWord, opField_packWord, argField_packWord]
    rfl
  | skipRom | convertT | readSp => cases h
  | reset | rbit | rbyte | measure => cases h; rfl

theorem portWord_encodeCmd (i : Instr) : portWord (encodeCmd i) = encodeWord i := by
  cases i <;> rfl

/-- Settles O2: a word decodes by `decodeWord_of_encodeCmd`, and a pseudo-command names its instruction. -/
theorem decodeInvertsEncode : Obligations.DecodeInvertsEncode := by
  intro i
  refine ⟨?_, portWord_encodeCmd i⟩
  cases he : encodeCmd i with
  | word w => exact decodeWord_of_encodeCmd he
  | line c => cases i <;> cases he <;> rfl

/-- A legal word of a `Z` opcode is that opcode with no operand (R91). -/
theorem eq_packWord_of_decodeZ {w : CmdWord} {op : BitVec 4} {i j : Instr} (hop : opField w = op)
    (h : decodeZ (argField w) j = .ok i) : w = packWord op 0 ∧ i = j := by
  unfold decodeZ at h
  split at h
  · rename_i hadmits
    have harg : argField w = 0 := by simpa [formatAdmits] using hadmits
    exact ⟨by rw [← packWord_fields w, hop, harg], (Except.ok.inj h).symm⟩
  · cases h

/-- The operand byte of a `B1` word that decodes is its bit (R91). -/
theorem bitByte_of_admitted {arg : Byte} (h : formatAdmits .b1 arg = true) : bitByte (arg.getLsbD 0) = arg := by
  revert arg
  decide

/-- What `Dec` gives for a legal word is the instruction whose word it is (R93, R94). -/
theorem encodeCmd_of_decodeWord {w : CmdWord} {i : Instr} (h : decodeWord w = .ok i) : encodeCmd i = .word w := by
  simp only [decodeWord] at h
  split_ifs at h with h1 h2 hb h3 h4 h5 h6
  · obtain ⟨rfl, rfl⟩ := eq_packWord_of_decodeZ h1 h
    rfl
  · cases h
    rw [encodeCmd, encodeWord, bitByte_of_admitted hb, ← h2, packWord_fields]
  · cases h
    rw [encodeCmd, encodeWord, ← h3, packWord_fields]
  · obtain ⟨rfl, rfl⟩ := eq_packWord_of_decodeZ h4 h
    rfl
  · obtain ⟨rfl, rfl⟩ := eq_packWord_of_decodeZ h5 h
    rfl
  · obtain ⟨rfl, rfl⟩ := eq_packWord_of_decodeZ h6 h
    rfl

/-- Settles O3: a legal word is what the host presents for what it decodes to. -/
theorem decodedWordIsItsEncoding : Obligations.DecodedWordIsItsEncoding := by
  intro w i h
  rw [← portWord_encodeCmd, encodeCmd_of_decodeWord h, portWord]

/-! ## The rows of the opcode map (R91, R93) -/

/-- The operand bits a format holds at 0 (R91), as a row's mask has them. -/
def formatMask : Format → Byte
  | .z => 0xFF
  | .b1 => 0xFE
  | .b8 => 0x00

theorem formatAdmits_iff_masked (f : Format) (arg : Byte) :
    formatAdmits f arg = true ↔ arg &&& formatMask f = 0 := by
  cases f <;> revert arg <;> decide

/-- Every row masks the whole opcode and the operand bits of its format. -/
theorem opcodeMap_pattern_mask :
    ∀ r ∈ opcodeMap, r.pattern = packWord r.opcode 0 ∧ r.mask = packWord 0xF (formatMask r.format) := by
  decide

/-- A word selects a row when it has the row's opcode and an operand byte of the row's format. -/
theorem rowSelected_packWord {r : OpRow} (hr : r ∈ opcodeMap) (op : BitVec 4) (arg : Byte) :
    rowSelected r (packWord op arg) = true ↔ op = r.opcode ∧ formatAdmits r.format arg = true := by
  obtain ⟨hpattern, hmask⟩ := opcodeMap_pattern_mask r hr
  have hand : packWord op arg &&& r.mask = packWord op (arg &&& formatMask r.format) := by
    rw [hmask, packWord, packWord, BitVec.and_append, packWord]
    exact congrArg (· ++ _) BitVec.and_allOnes
  rw [rowSelected, beq_iff_eq, hand, hpattern, packWord_inj, formatAdmits_iff_masked]

/-- The row an instruction belongs to is the one its word selects. -/
theorem selectedRows_encodeWord (i : Instr) : Laws.RowMatch.Statement i := by
  cases i with
  | reset => exact Laws.RowMatch.reset
  | wbit b => exact Laws.RowMatch.wbit b
  | wbyte d => exact Laws.RowMatch.wbyte d
  | rbit => exact Laws.RowMatch.rbit
  | rbyte => exact Laws.RowMatch.rbyte
  | measure => exact Laws.RowMatch.measure
  | skipRom => exact Laws.RowMatch.skipRom
  | convertT => exact Laws.RowMatch.convertT
  | readSp => exact Laws.RowMatch.readSp

theorem rowSelected_encodeWord_iff {r : OpRow} {i : Instr} :
    r ∈ opcodeMap ∧ rowSelected r (encodeWord i) = true ↔ r = Laws.RowMatch.rowOf i := by
  rw [← List.mem_filter (p := fun r => rowSelected r (encodeWord i)), selectedRows_encodeWord i, List.mem_singleton]

/-- A word that selects a row decodes (R94). -/
theorem decodes_of_rowSelected {r : OpRow} {w : CmdWord} (hr : r ∈ opcodeMap) (hw : rowSelected r w = true) :
    ∃ i, decodeWord w = .ok i := by
  rw [← packWord_fields w, rowSelected_packWord hr] at hw
  obtain ⟨hop, hformat⟩ := hw
  simp only [opcodeMap, List.mem_cons, List.not_mem_nil, or_false] at hr
  rcases hr with rfl | rfl | rfl | rfl | rfl | rfl <;>
    exact ⟨_, by simp only [decodeWord, decodeZ, hop, hformat]; rfl⟩

/-- Settles O4: a word that selects a row decodes, and one that decodes is an encoding, which selects its row alone. -/
theorem illegalWordsSelectNoRow : Obligations.IllegalWordsSelectNoRow := by
  intro w
  constructor
  · rw [← Bool.not_eq_true, wordWellFormed, List.any_eq_true]
    constructor
    · rintro ⟨e, he⟩ ⟨r, hr, hw⟩
      obtain ⟨i, hi⟩ := decodes_of_rowSelected hr hw
      rw [he] at hi
      cases hi
    · intro hnone
      cases hd : decodeWord w with
      | error e => exact ⟨e, rfl⟩
      | ok i =>
        obtain rfl := decodedWordIsItsEncoding w i hd
        exact absurd ⟨_, rowSelected_encodeWord_iff.mpr rfl⟩ hnone
  · intro r hr r' hr' hw hw'
    obtain ⟨i, hi⟩ := decodes_of_rowSelected hr hw
    obtain rfl := decodedWordIsItsEncoding w i hi
    exact (rowSelected_encodeWord_iff.mp ⟨hr, hw⟩).trans (rowSelected_encodeWord_iff.mp ⟨hr', hw'⟩).symm

/-- Settles O1: 25 fixed words and three bytes, evaluated. -/
theorem decodeGivesTheVectors : Obligations.DecodeGivesTheVectors :=
  ⟨by decide, by decide, by decide⟩

/-! ## The pseudo-commands (R104) -/

theorem exec_lineInstr (c : LineCmd) (s : State) : exec (lineInstr c) s = acceptWByte (lineCmdByte c) s := by
  cases c <;> rfl

/-- Settles O5: the port carries the `WBYTE` word, and acceptance is the one of that `WBYTE`. -/
theorem pseudoCommandsAreTheirWbyte : Obligations.PseudoCommandsAreTheirWbyte :=
  ⟨rfl, rfl, rfl, fun c s => ⟨decodeWord_of_encodeCmd (i := .wbyte (lineCmdByte c)) rfl, exec_lineInstr c s⟩⟩

end Sys2Proof.Machine
end

section
/-! SUPPORT. Proofs: an illegal word taken by an idle block (spec/60_exceptions.md R193), and the slots of a whole byte
written, as one update of the state (spec/41_byte_primitives.md R141; spec/30_encoding.md R104). -/

namespace Sys2Proof.Machine

theorem flush_eq (s : State) : flush s = { s with trace := fullTrace s, cur := 0 } := by
  unfold flush fullTrace
  split
  · rename_i hc
    rw [← hc]
  · rfl

theorem takeError_illegal_eq (s : State) :
    takeError .illegalCommand s
      = { s with done := true, errcode := .illegalCommand, trace := fullTrace s, cur := 0 } := by
  rw [takeError, flush_eq]

/-- Settles O9: an illegal word is fetched as one, and taking the error writes `DONE` and `ERRCODE` alone. -/
theorem illegalWordOnlySetsErrcode : Obligations.IllegalWordOnlySetsErrcode := by
  intro s p rest w hhost hrst hvalid hcmd hw hb
  have hp := portNow_cons hhost
  obtain ⟨e, he⟩ := (illegalWordsSelectNoRow w).1.mpr hw
  have hfetch : fetch s = .illegal e := fetch_of_undecoded (by rw [hp, hvalid]) (by rw [hp, hcmd]; exact he)
  refine ⟨_, step_of_illegal (by rw [hp, hrst]) hb hfetch, ?_, ?_⟩ <;> rw [takeError_illegal_eq]
  · exact fullTrace_of_cur_eq_zero rfl
  · rw [hhost, List.tail_cons]

/-! ## The slots of a byte (R124, R141) -/

theorem writeSlot_eq (b : Bool) (s : State) :
    writeSlot b s = { s with owOut := .H, trace := s.trace ++ writeTrace b } := by
  simp [writeSlot, waitUs, drive, writeTrace]

/-- At least one write slot: the slots one after the other, the line released. -/
theorem foldl_writeSlot_eq (f : Nat → Bool) (j : Nat) (js : List Nat) (s : State) :
    (j :: js).foldl (fun u j => writeSlot (f j) u) s
      = { s with owOut := .H, trace := s.trace ++ (j :: js).flatMap fun j => writeTrace (f j) } := by
  induction js generalizing j s with
  | nil => simp [writeSlot_eq]
  | cons k ks ih => rw [List.foldl_cons, ih, writeSlot_eq, List.flatMap_cons (x := j), List.append_assoc]

theorem writeByteSlots_eq (d : Byte) (s : State) :
    writeByteSlots d s = { s with shreg := d, owOut := .H, trace := s.trace ++ writeByteTrace d } :=
  foldl_writeSlot_eq (fun j => d.getLsbD j) 0 [1, 2, 3, 4, 5, 6, 7] { s with shreg := d }

/-- A whole `WBYTE d`, as the end of any instruction `i` that sends `d`. -/
theorem cmdWbyte_eq_afterCmd {i : Instr} {d : Byte} (hop : opOf i = .wbyte) (harg : argOf i = d) (n : Nat) (s : State) :
    { cmdWbyte d s with host := hostAfterBusy n s.host }
      = { afterCmd i n s with shreg := d, trace := fullTrace s ++ writeByteTrace d } := by
  rw [cmdWbyte, writeByteSlots_eq, cmdBegin, flush_eq, afterCmd, hop, harg]
  rfl

/-- An instruction that sends the byte `d` completes in 520 µs with the slots of `d` on the line (R141). -/
theorem completesIn_sendsByte {i : Instr} {d : Byte} {s : State} (hexec : exec i s = acceptWByte d s)
    (hop : opOf i = .wbyte) (harg : argOf i = d) (hb : s.busy = false) (hr : noRstFor 520 s.host = true) :
    CompletesIn i s 520 { afterCmd i 520 s with shreg := d, trace := fullTrace s ++ writeByteTrace d } := by
  rw [← cmdWbyte_eq_afterCmd hop harg]
  exact completesIn_wbyte hexec hb hr

/-- The slots of the three command bytes, bit 0 first (R98, R100). -/
theorem writeByteTrace_commandBytes :
    writeByteTrace 0xCC = [false, false, true, true, false, false, true, true].flatMap writeTrace
      ∧ writeByteTrace 0x44 = [false, false, true, false, false, false, true, false].flatMap writeTrace
      ∧ writeByteTrace 0xBE = [false, true, true, true, true, true, false, true].flatMap writeTrace := by
  decide

/-- Settles O19: each of the three runs as the `WBYTE` of its byte, whose slots are known. -/
theorem lineCommandsSendTheirSlots : Obligations.LineCommandsSendTheirSlots := by
  intro s hb hr
  obtain ⟨hskip, hconvert, hread⟩ := writeByteTrace_commandBytes
  rw [← hskip, ← hconvert, ← hread]
  exact ⟨completesIn_sendsByte (exec_lineInstr .skipRom s) rfl rfl hb hr,
    completesIn_sendsByte (exec_lineInstr .convertT s) rfl rfl hb hr,
    completesIn_sendsByte (exec_lineInstr .readSp s) rfl rfl hb hr⟩

end Sys2Proof.Machine
end

section
/-! SUPPORT. Proofs: the three slot commands from any idle state, each ending as one update of the state
(spec/40_slot_primitives.md R121, R124, R125). -/

namespace Sys2Proof.Machine

/-- A whole `RESET`: `PRESENCE` and the trace from the one answer. -/
theorem cmdReset_eq_afterCmd (n : Nat) (s : State) :
    { cmdReset s with host := hostAfterBusy n s.host }
      = { afterCmd .reset n s with
          presence := presenceOf (resetAnswer s.env (fullTrace s) s.choice)
          trace := fullTrace s ++ resetTrace (resetAnswer s.env (fullTrace s) s.choice)
          choice := s.choice + 1 } := by
  rw [cmdReset, resetSlot_eq, cmdBegin, flush_eq]
  rfl

/-- A whole `WBIT b`: its slot on the line and nothing else. -/
theorem cmdWbit_eq_afterCmd (b : Bool) (n : Nat) (s : State) :
    { cmdWbit b s with host := hostAfterBusy n s.host }
      = { afterCmd (.wbit b) n s with trace := fullTrace s ++ writeTrace b } := by
  rw [cmdWbit, writeSlot_eq, cmdBegin, flush_eq]
  rfl

/-- Bit 0 read into a cleared `SHREG` (R125, R126): the byte 1 for `H` and 0 for `L`. -/
theorem bitByte_bitOf_shifted (v : Level) :
    (0 : Byte) ||| (bitByte (bitOf v) <<< 0) = if v = .H then 1 else 0 := by
  cases v <;> rfl

/-- A whole `RBIT`: `SHREG`, `DATA` and the trace from the one answer. -/
theorem cmdRbit_eq_afterCmd (n : Nat) (s : State) :
    { cmdRbit s with host := hostAfterBusy n s.host }
      = { afterCmd .rbit n s with
          shreg := if readAnswer s.env (fullTrace s) s.choice = .H then 1 else 0
          data := if readAnswer s.env (fullTrace s) s.choice = .H then 1 else 0
          trace := fullTrace s ++ readTrace (readAnswer s.env (fullTrace s) s.choice)
          choice := s.choice + 1 } := by
  rw [cmdRbit, readSlot_eq, cmdBegin, flush_eq, ← bitByte_bitOf_shifted]
  rfl

/-- Settles O14: the ticks end as the rule of `RESET` does, whose slot is known. -/
theorem resetRuns : Obligations.ResetRuns := by
  intro s hb hr
  have hrun := completesIn_reset hb hr
  rwa [cmdReset_eq_afterCmd] at hrun

/-- Settles O15: the ticks end as the rule of `WBIT` does, whose slot is that of its bit. -/
theorem wbitRuns : Obligations.WbitRuns := by
  intro b s hb hr
  have hrun := completesIn_wbit b hb hr
  rw [cmdWbit_eq_afterCmd] at hrun
  cases b with
  | false => exact hrun
  | true => exact hrun

/-- Settles O16: the ticks end as the rule of `RBIT` does, whose one bit is all of `SHREG` and `DATA`. -/
theorem rbitRuns : Obligations.RbitRuns := by
  intro s hb hr
  have hrun := completesIn_rbit hb hr
  rwa [cmdRbit_eq_afterCmd] at hrun

end Sys2Proof.Machine
end

section
/-! SUPPORT. Proofs: the waveform and the edges of a slot (spec/40_slot_primitives.md R127; spec/30_encoding.md R97;
R128). -/

namespace Sys2Proof.Machine

/-! ## A stretch of a trace in which the master drives nothing -/

/-- The line stays at the level it has while the master drives nothing (R14). -/
theorem waveform_of_undriven {tr : List Event} (h : ∀ l', .drv l' ∉ tr) (l : Level) (t : Nat) :
    waveform l tr t = l := by
  induction tr generalizing t with
  | nil => rfl
  | cons e tr ih =>
    have ih := ih fun l' hl' => h l' (List.mem_cons_of_mem _ hl')
    cases e with
    | drv l' => exact absurd List.mem_cons_self (h l')
    | dly n => rw [waveform, ih, ite_self]
    | smp v => rw [waveform, ih]
    | ntf => rw [waveform, ih]

theorem edges_of_undriven {tr : List Event} (h : ∀ l', .drv l' ∉ tr) (l : Level) :
    fallingEdges l tr = 0 ∧ risingEdges l tr = 0 := by
  induction tr with
  | nil => exact ⟨rfl, rfl⟩
  | cons e tr ih =>
    have ih := ih fun l' hl' => h l' (List.mem_cons_of_mem _ hl')
    cases e with
    | drv l' => exact absurd List.mem_cons_self (h l')
    | dly n => exact ih
    | smp v => exact ih
    | ntf => exact ih

/-! ## A slot: the line low for `n` µs, then released for good -/

theorem waveform_slot {tr : List Event} (h : ∀ l', .drv l' ∉ tr) (n t : Nat) :
    waveform .H (.drv .L :: .dly n :: .drv .H :: tr) t = if t < n then .L else .H := by
  rw [waveform, waveform, waveform, waveform_of_undriven h]

theorem edges_slot {tr : List Event} (h : ∀ l', .drv l' ∉ tr) (n : Nat) :
    fallingEdges .H (.drv .L :: .dly n :: .drv .H :: tr) = 1
      ∧ risingEdges .H (.drv .L :: .dly n :: .drv .H :: tr) = 1 := by
  obtain ⟨hfall, hrise⟩ := edges_of_undriven h .H
  simp [fallingEdges, risingEdges, hfall, hrise]

/-! ## Durations and the instants of the samples (R127, R97) -/

theorem elapsed_writeTrace (b : Bool) : elapsed (writeTrace b) = 65 := by cases b <;> rfl

theorem elapsed_before_presenceSample (v : Level) :
    elapsed ((resetTrace v).takeWhile fun e => e != .smp v) = 570 := by cases v <;> rfl

theorem elapsed_before_bitSample (v : Level) :
    elapsed ((readTrace v).takeWhile fun e => e != .smp v) = 14 := by cases v <;> rfl

/-- Settles O26: after its low time a slot drives nothing but the release, so its waveform and its edges are those of
any slot; its duration and the instant of its sample are sums of the delays. -/
theorem slotWaveforms : Obligations.SlotWaveforms := by
  constructor
  · intro v t
    have hreset : ∀ l, Event.drv l ∉ [.dly tRsts, .smp v, .dly tRstt] := by simp
    have hread : ∀ l, Event.drv l ∉ [.dly tRds, .smp v, .dly tRdt] := by simp
    obtain ⟨hresetFall, hresetRise⟩ := edges_slot hreset tRstl
    obtain ⟨hreadFall, hreadRise⟩ := edges_slot hread tRdl
    exact ⟨waveform_slot hreset tRstl t, rfl, elapsed_before_presenceSample v, waveform_slot hread tRdl t, rfl,
      elapsed_before_bitSample v, hresetFall, hresetRise, hreadFall, hreadRise⟩
  · intro b t
    have hwrite : ∀ l, Event.drv l ∉ [.dly (writeHigh b)] := by simp
    exact ⟨waveform_slot hwrite (writeLow b) t, elapsed_writeTrace b, edges_slot hwrite (writeLow b)⟩

end Sys2Proof.Machine
end

section
/-! SUPPORT. Proofs: the byte commands from any idle state, and against their slot commands one by one
(spec/41_byte_primitives.md R140 to R144). -/

namespace Sys2Proof.Machine

/-! ## `WBYTE`: its slots and its low time (R141) -/

/-- The write slot of either bit, with the delays of R124 written out. -/
theorem writeTrace_eq (b : Bool) :
    writeTrace b = if b then [.drv .L, .dly 10, .drv .H, .dly 55] else [.drv .L, .dly 60, .drv .H, .dly 5] := by
  cases b <;> rfl

/-- Settles O17: the ticks put the slots of `d` on the line, each of them that of its bit. -/
theorem wbyteRuns : Obligations.WbyteRuns := by
  intro d s hb hr
  have hrun := completesIn_sendsByte (i := .wbyte d) rfl rfl rfl hb hr
  simp only [writeByteTrace, writeTrace_eq] at hrun
  exact hrun

/-- A write slot adds its low time to that of the slots after it. -/
theorem lowTime_writeTrace_append (b : Bool) (tr : List Event) :
    lowTime .H (writeTrace b ++ tr) = writeLow b + lowTime .H tr := by
  simp [writeTrace, lowTime]

theorem lowTime_writeSlots (f : Nat → Bool) (js : List Nat) :
    lowTime .H (js.flatMap fun j => writeTrace (f j)) = 10 * js.countP f + 60 * (js.length - js.countP f) := by
  induction js with
  | nil => rfl
  | cons j js ih =>
    have hle := List.countP_le_length (p := f) (l := js)
    rw [List.flatMap_cons, lowTime_writeTrace_append, ih, List.countP_cons, List.length_cons]
    cases f j
    · simp only [writeLow, tW0l, Bool.false_eq_true, if_false]
      omega
    · simp only [writeLow, tW1l, if_true]
      omega

/-- Settles O27: slot by slot, 10 µs for a 1 and 60 µs for a 0. -/
theorem wbyteLowTime : Obligations.WbyteLowTime := fun d => lowTime_writeSlots (fun i => d.getLsbD i) (List.range 8)

/-! ## The byte of the levels answered (R65, R98) -/

theorem getLsbD_byteOfLevels (vs : List Level) {k : Nat} (hk : k < 8) :
    (byteOfLevels vs).getLsbD k = (vs.getD k .L == .H) := by
  rw [byteOfLevels, BitVec.getLsbD_ofFnLE, dif_pos hk]

theorem getLsbD_bitByte (b : Bool) (k : Nat) : (bitByte b).getLsbD k = (decide (k = 0) && b) := by
  cases b <;> simp [bitByte]

theorem byteOfLevels_nil : byteOfLevels [] = 0 := by decide

/-- The first answer is bit 0, the answers after it follow one place higher. -/
theorem byteOfLevels_cons (v : Level) (vs : List Level) :
    byteOfLevels (v :: vs) = bitByte (bitOf v) ||| (byteOfLevels vs <<< 1) := by
  apply BitVec.eq_of_getLsbD_eq
  intro k hk
  rw [getLsbD_byteOfLevels _ hk, BitVec.getLsbD_or, getLsbD_bitByte, BitVec.getLsbD_shiftLeft]
  cases k with
  | zero => simp [bitOf]
  | succ k => simp [hk, getLsbD_byteOfLevels vs (show k < 8 by omega)]

/-- The same, the byte standing from place `i` on. -/
theorem byteOfLevels_cons_shifted (v : Level) (vs : List Level) (i : Nat) :
    byteOfLevels (v :: vs) <<< i = (bitByte (bitOf v) <<< i) ||| (byteOfLevels vs <<< (i + 1)) := by
  rw [byteOfLevels_cons, BitVec.shiftLeft_or_distrib, ← BitVec.shiftLeft_add, Nat.add_comm]

/-! ## `RBYTE`: its slots as one update of the state (R143) -/

theorem readAnswers_succ (env : LineEnv) (n : Nat) (tr : List Event) (choice : Nat) :
    readAnswers env (n + 1) tr choice
      = readAnswer env tr choice :: readAnswers env n (tr ++ readTrace (readAnswer env tr choice)) (choice + 1) := rfl

/-- At least one read slot, the first of them bit `i` of `SHREG`: the answers or-ed in from there on, the line
released. -/
theorem foldl_readSlot_eq (n i : Nat) (s : State) :
    (List.range' i (n + 1)).foldl (fun u j => readSlot j u) s
      = { s with
          shreg := s.shreg ||| (byteOfLevels (readAnswers s.env (n + 1) s.trace s.choice) <<< i)
          owOut := .H
          trace := s.trace ++ readTraces (readAnswers s.env (n + 1) s.trace s.choice)
          choice := s.choice + (n + 1) } := by
  induction n generalizing i s with
  | zero => simp [readSlot_eq, readAnswers, readTraces, byteOfLevels_cons_shifted, byteOfLevels_nil]
  | succ n ih =>
    rw [List.range'_succ, List.foldl_cons, ih, readAnswers_succ s.env (n + 1), byteOfLevels_cons_shifted,
      readSlot_eq]
    simp [readTraces, BitVec.or_assoc, Nat.add_assoc, Nat.add_comm 1]

theorem readByteSlots_eq (s : State) :
    readByteSlots s
      = { s with
          shreg := byteOfLevels (readAnswers s.env 8 s.trace s.choice)
          owOut := .H
          trace := s.trace ++ readTraces (readAnswers s.env 8 s.trace s.choice)
          choice := s.choice + 8 } := by
  have hslots := foldl_readSlot_eq 7 0 { s with shreg := 0 }
  have hcleared (d : Byte) : (0 : Byte) ||| (d <<< 0) = d := by simp
  rw [← hcleared (byteOfLevels _)]
  exact hslots

/-- A whole `RBYTE`: `SHREG`, `DATA` and the trace from the eight answers. -/
theorem cmdRbyte_eq_afterCmd (n : Nat) (s : State) :
    { cmdRbyte s with host := hostAfterBusy n s.host }
      = { afterCmd .rbyte n s with
          shreg := byteOfLevels (readAnswers s.env 8 (fullTrace s) s.choice)
          data := byteOfLevels (readAnswers s.env 8 (fullTrace s) s.choice)
          trace := fullTrace s ++ readTraces (readAnswers s.env 8 (fullTrace s) s.choice)
          choice := s.choice + 8 } := by
  rw [cmdRbyte, readByteSlots_eq, cmdBegin, flush_eq]
  rfl

/-- Settles O18: the ticks end as the rule of `RBYTE` does, whose eight slots are known. -/
theorem rbyteRuns : Obligations.RbyteRuns := by
  intro s hb hr
  have hrun := completesIn_rbyte hb hr
  rwa [cmdRbyte_eq_afterCmd] at hrun

/-! ## Whole commands as updates of the state, the host's list untouched -/

theorem cmdWbit_eq (b : Bool) (s : State) :
    cmdWbit b s = { afterCmd (.wbit b) 0 s with trace := fullTrace s ++ writeTrace b } :=
  (runCmd_setHost (.wbit b) s.host s).trans (cmdWbit_eq_afterCmd b 0 s)

theorem cmdWbyte_eq (d : Byte) (s : State) :
    cmdWbyte d s = { afterCmd (.wbyte d) 0 s with shreg := d, trace := fullTrace s ++ writeByteTrace d } :=
  (cmdWbyte_setHost d s.host s).trans (cmdWbyte_eq_afterCmd (i := .wbyte d) rfl rfl 0 s)

theorem cmdRbit_eq (s : State) :
    cmdRbit s
      = { afterCmd .rbit 0 s with
          shreg := if readAnswer s.env (fullTrace s) s.choice = .H then 1 else 0
          data := if readAnswer s.env (fullTrace s) s.choice = .H then 1 else 0
          trace := fullTrace s ++ readTrace (readAnswer s.env (fullTrace s) s.choice)
          choice := s.choice + 1 } :=
  (runCmd_setHost .rbit s.host s).trans (cmdRbit_eq_afterCmd 0 s)

theorem cmdRbyte_eq (s : State) :
    cmdRbyte s
      = { afterCmd .rbyte 0 s with
          shreg := byteOfLevels (readAnswers s.env 8 (fullTrace s) s.choice)
          data := byteOfLevels (readAnswers s.env 8 (fullTrace s) s.choice)
          trace := fullTrace s ++ readTraces (readAnswers s.env 8 (fullTrace s) s.choice)
          choice := s.choice + 8 } :=
  (runCmd_setHost .rbyte s.host s).trans (cmdRbyte_eq_afterCmd 0 s)

theorem fullTrace_cmdWbit (b : Bool) (s : State) : fullTrace (cmdWbit b s) = fullTrace s ++ writeTrace b := by
  rw [cmdWbit_eq]
  exact fullTrace_of_cur_eq_zero rfl

theorem fullTrace_cmdWbyte (d : Byte) (s : State) : fullTrace (cmdWbyte d s) = fullTrace s ++ writeByteTrace d := by
  rw [cmdWbyte_eq]
  exact fullTrace_of_cur_eq_zero rfl

@[simp] theorem cmdRbit_env (s : State) : (cmdRbit s).env = s.env := by rw [cmdRbit_eq]; rfl
@[simp] theorem cmdRbit_choice (s : State) : (cmdRbit s).choice = s.choice + 1 := by rw [cmdRbit_eq]
@[simp] theorem cmdRbit_cur (s : State) : (cmdRbit s).cur = 0 := by rw [cmdRbit_eq]; rfl

theorem fullTrace_cmdRbit (s : State) :
    fullTrace (cmdRbit s) = fullTrace s ++ readTrace (readAnswer s.env (fullTrace s) s.choice) := by
  rw [fullTrace_of_cur_eq_zero (cmdRbit_cur s), cmdRbit_eq]

/-- `DATA[0]` after an `RBIT` is its answer (R125, R126). -/
theorem cmdRbit_data_zero (s : State) :
    (cmdRbit s).data.getLsbD 0 = (readAnswer s.env (fullTrace s) s.choice == .H) := by
  have hdata : (cmdRbit s).data = if readAnswer s.env (fullTrace s) s.choice = .H then 1 else 0 := by rw [cmdRbit_eq]
  rw [hdata]
  cases readAnswer s.env (fullTrace s) s.choice <;> decide

/-! ## Slot commands with no gap (R142, R144) -/

/-- At least one `WBIT`: the slots one after the other, else the end of the last of them. -/
theorem foldl_cmdWbit_eq (f : Nat → Bool) (js : List Nat) (k : Nat) (s : State) :
    (js ++ [k]).foldl (fun u j => cmdWbit (f j) u) s
      = { afterCmd (.wbit (f k)) 0 s with
          trace := fullTrace s ++ (js ++ [k]).flatMap fun j => writeTrace (f j) } := by
  induction js generalizing s with
  | nil => simp [cmdWbit_eq]
  | cons j js ih =>
    rw [List.cons_append, List.foldl_cons, ih, fullTrace_cmdWbit, List.append_assoc, cmdWbit_eq]
    rfl

theorem eightWbits_eq (d : Byte) (s : State) :
    eightWbits d s = { afterCmd (.wbit (d.getLsbD 7)) 0 s with trace := fullTrace s ++ writeByteTrace d } :=
  foldl_cmdWbit_eq (fun i => d.getLsbD i) (List.range 7) 7 s

/-- `WBYTE d` against its eight `WBIT`: all but `OP`, `ARG` and `SHREG` (R142, log entry 9). -/
theorem cmdWbyte_eq_eightWbits (d : Byte) (s : State) :
    cmdWbyte d s = { eightWbits d s with op := .wbyte, arg := d, shreg := d } := by
  rw [cmdWbyte_eq, eightWbits_eq]
  rfl

theorem cmdDuration_wbyte_eq_sum (d : Byte) (s : State) :
    cmdDuration (.wbyte d) s = ((List.range 8).map fun i => cmdDuration (.wbit (d.getLsbD i)) s).sum := by
  simp only [cmdDuration, List.map_const', List.sum_replicate, List.length_range, smul_eq_mul]

theorem fullTrace_iterate_cmdRbit (n : Nat) (s : State) :
    fullTrace (cmdRbit^[n] s) = fullTrace s ++ readTraces (readAnswers s.env n (fullTrace s) s.choice) := by
  induction n generalizing s with
  | zero => exact (List.append_nil _).symm
  | succ n ih =>
    rw [Function.iterate_succ_apply, ih, fullTrace_cmdRbit, cmdRbit_env, cmdRbit_choice, List.append_assoc]
    rfl

/-- `DATA[0]` after the last of `i + 1` `RBIT` is the answer to slot `i` of any run of read slots that long. -/
theorem iterate_cmdRbit_data_zero {i n : Nat} (hi : i < n) (s : State) :
    (cmdRbit^[i + 1] s).data.getLsbD 0 = ((readAnswers s.env n (fullTrace s) s.choice).getD i .L == .H) := by
  induction n generalizing i s with
  | zero => exact absurd hi (Nat.not_lt_zero i)
  | succ n ih =>
    cases i with
    | zero => exact cmdRbit_data_zero s
    | succ i =>
      rw [Function.iterate_succ_apply, ih (Nat.lt_of_succ_lt_succ hi), fullTrace_cmdRbit, cmdRbit_env, cmdRbit_choice]
      rfl

/-- Settles O28: the slots are the same, and so are the answers they meet. -/
theorem byteCommandsEqualEightSlots : Obligations.ByteCommandsEqualEightSlots := by
  intro s
  refine ⟨fun d => ⟨?_, cmdWbyte_eq_eightWbits d s, cmdDuration_wbyte_eq_sum d s, ?_⟩, ?_, rfl, fun i hi => ?_⟩
  · rw [cmdWbyte_eq_eightWbits]
  · rw [eightWbits_eq]
    rfl
  · have hcur : (cmdRbit^[8] s).cur = 0 := cmdRbit_cur _
    rw [← fullTrace_of_cur_eq_zero hcur, fullTrace_iterate_cmdRbit, cmdRbyte_eq]
  · rw [iterate_cmdRbit_data_zero hi, ← getLsbD_byteOfLevels _ hi, cmdRbyte_eq]

/-- Settles O58: with `SHREG <- d` before them the eight `WBIT` end as `WBYTE d` does, but for `OP` and `ARG`. -/
theorem wbyteEqualsItsExpansion : Obligations.WbyteEqualsItsExpansion := by
  intro d s
  have hend : cmdWbyte d s = { wbyteExpansion d s with op := .wbyte, arg := d } := by
    rw [cmdWbyte_eq, wbyteExpansion, eightWbits_eq]
    rfl
  refine ⟨by rw [hend], cmdDuration_wbyte_eq_sum d s, by rw [hend], hend, ?_⟩
  rw [eightWbits_eq, cmdWbyte_eq]
  rfl

end Sys2Proof.Machine
end

section
/-! SUPPORT. Proofs: the queue of `LoopbackStub` slot by slot, and the round trip of a byte through it
(spec/20_memory.md R83; spec/41_byte_primitives.md R145). -/

namespace Sys2Proof.Machine

/-! ## The queue, event by event -/

/-- What the first event of a trace, seen with the four after it, does to the queue of `LoopbackStub`
(`loopbackQueue_cons`). -/
def loopbackStep (q : List Bool) (tr : List Event) : List Bool :=
  if tr.take 4 == writeTrace true then q ++ [true]
  else if tr.take 4 == writeTrace false then q ++ [false]
  else if tr.take 4 == [.drv .L, .dly tRdl, .drv .H, .dly tRds] && (samplesOf ((tr.drop 4).take 1)).length == 1
  then q.tail
  else q

theorem loopbackQueue_nil (q : List Bool) : loopbackQueue q [] = q := rfl

theorem loopbackQueue_cons (q : List Bool) (e : Event) (tr : List Event) :
    loopbackQueue q (e :: tr) = loopbackQueue (loopbackStep q (e :: tr)) tr := by
  rw [loopbackQueue, loopbackStep, List.drop_succ_cons]
  split_ifs <;> rfl

/-- A slot is recognised at its `Drv(L)` only. -/
theorem loopbackStep_of_not_low {e : Event} (he : e ≠ .drv .L) (q : List Bool) (tr : List Event) :
    loopbackStep q (e :: tr) = q := by
  simp [loopbackStep, writeTrace, he]

theorem loopbackQueue_of_not_low {e : Event} (he : e ≠ .drv .L) (q : List Bool) (tr : List Event) :
    loopbackQueue q (e :: tr) = loopbackQueue q tr := by
  rw [loopbackQueue_cons, loopbackStep_of_not_low he]

/-- Another `Drv(L)` is no part of a slot that began before it: whatever follows it, the event before it does the
same. -/
theorem loopbackStep_append_low (q : List Bool) (e : Event) (tr w : List Event) :
    loopbackStep q (e :: (tr ++ .drv .L :: w)) = loopbackStep q (e :: tr) := by
  match tr with
  | [] | [_] | [_, _] => simp [loopbackStep, writeTrace]
  | [_, _, _] => simp [loopbackStep, samplesOf]
  | _ :: _ :: _ :: _ :: _ => simp [loopbackStep]

/-- The queue after a trace is all that the slots from the next `Drv(L)` on see of it. -/
theorem loopbackQueue_append_low (q : List Bool) (tr w : List Event) :
    loopbackQueue q (tr ++ .drv .L :: w) = loopbackQueue (loopbackQueue q tr) (.drv .L :: w) := by
  induction tr generalizing q with
  | nil => rfl
  | cons e tr ih => rw [List.cons_append, loopbackQueue_cons, loopbackStep_append_low, ih, loopbackQueue_cons q e tr]

/-! ## The queue, slot by slot (R83) -/

/-- A write slot appends its bit. -/
theorem loopbackQueue_writeTrace_append (b : Bool) (q : List Bool) (w : List Event) :
    loopbackQueue q (writeTrace b ++ w) = loopbackQueue (q ++ [b]) w := by
  have hbit : loopbackStep q (writeTrace b ++ w) = q ++ [b] := by
    cases b <;> simp [loopbackStep, writeTrace, writeLow, writeHigh, tW1l, tW0l]
  calc loopbackQueue q (writeTrace b ++ w)
    _ = loopbackQueue (loopbackStep q (writeTrace b ++ w)) (.dly (writeLow b) :: .drv .H :: .dly (writeHigh b) :: w) :=
      loopbackQueue_cons q (.drv .L) _
    _ = loopbackQueue (q ++ [b]) w := by simp [hbit, loopbackQueue_of_not_low]

theorem loopbackQueue_writeSlots (f : Nat → Bool) (js : List Nat) (q : List Bool) :
    loopbackQueue q (js.flatMap fun j => writeTrace (f j)) = q ++ js.map f := by
  induction js generalizing q with
  | nil => exact (List.append_nil q).symm
  | cons j js ih =>
    rw [List.flatMap_cons, loopbackQueue_writeTrace_append, ih, List.map_cons, List.append_assoc, List.singleton_append]

/-- A read slot removes the oldest bit. -/
theorem loopbackQueue_readTrace (v : Level) (q : List Bool) : loopbackQueue q (readTrace v) = q.tail := by
  calc loopbackQueue q (readTrace v)
    _ = loopbackQueue q.tail [.dly tRdl, .drv .H, .dly tRds, .smp v, .dly tRdt] := loopbackQueue_cons q (.drv .L) _
    _ = q.tail := by simp [loopbackQueue_of_not_low, loopbackQueue_nil]

theorem loopbackQueue_append_readTrace (v : Level) (tr : List Event) :
    loopbackQueue [] (tr ++ readTrace v) = (loopbackQueue [] tr).tail := by
  rw [readTrace, loopbackQueue_append_low, ← readTrace, loopbackQueue_readTrace]

/-- The answer to a read slot is the oldest bit. -/
theorem readAnswer_loopback {tr : List Event} {b : Bool} {bs : List Bool} (hq : loopbackQueue [] tr = b :: bs)
    (choice : Nat) : readAnswer .loopback tr choice = levelOfBit b := by
  have hopening : loopbackQueue [] (tr ++ [.drv .L, .dly tRdl, .drv .H, .dly tRds]) = b :: bs := by
    rw [loopbackQueue_append_low, hq]
    rfl
  have hbit : atPresenceSample (tr ++ [Event.drv .L, .dly tRdl, .drv .H, .dly tRds]).reverse = false := by
    simp [atPresenceSample, tRds, tRsts]
  rw [readAnswer, envAnswer, loopbackAnswer, hbit, hopening]
  rfl

/-- The answers to as many read slots as there are bits in the queue are those bits, oldest first. -/
theorem readAnswers_loopback {tr : List Event} {bs : List Bool} (hq : loopbackQueue [] tr = bs) (choice : Nat) :
    readAnswers .loopback bs.length tr choice = bs.map levelOfBit := by
  induction bs generalizing tr choice with
  | nil => rfl
  | cons b bs ih =>
    have hrest : loopbackQueue [] (tr ++ readTrace (levelOfBit b)) = bs := by
      rw [loopbackQueue_append_readTrace, hq, List.tail_cons]
    rw [List.length_cons, readAnswers_succ, readAnswer_loopback hq, ih hrest, List.map_cons]

/-! ## The round trip of a byte (R145) -/

theorem byteOfLevels_levelOfBit (d : Byte) :
    byteOfLevels (((List.range 8).map fun i => d.getLsbD i).map levelOfBit) = d := by
  apply BitVec.eq_of_getLsbD_eq
  intro k hk
  have hlevel (b : Bool) : (levelOfBit b == .H) = b := by cases b <;> rfl
  rw [getLsbD_byteOfLevels _ hk]
  simp [List.getD_eq_getElem?_getD, hk, hlevel]

/-- A byte written into an empty queue stands in it, bit 0 the oldest. -/
theorem loopbackQueue_append_writeByteTrace {tr : List Event} (hq : loopbackQueue [] tr = []) (d : Byte) :
    loopbackQueue [] (tr ++ writeByteTrace d) = (List.range 8).map fun i => d.getLsbD i := by
  obtain ⟨w, hw⟩ : ∃ w, writeByteTrace d = .drv .L :: w := ⟨_, rfl⟩
  rw [hw, loopbackQueue_append_low, hq, ← hw, writeByteTrace, loopbackQueue_writeSlots (fun i => d.getLsbD i),
    List.nil_append]

/-- Settles O33: the read slots are answered with the eight bits the write slots have put into the queue. -/
theorem loopbackRoundTrip : Obligations.LoopbackRoundTrip := by
  intro s d he hq
  refine ⟨?_, fullTrace_cmdWbyte d s⟩
  have henv : (cmdWbyte d s).env = .loopback := by
    rw [cmdWbyte_eq]
    exact he
  have hanswers := readAnswers_loopback (loopbackQueue_append_writeByteTrace hq d) (cmdWbyte d s).choice
  rw [List.length_map, List.length_range] at hanswers
  rw [cmdRbyte_eq, henv, fullTrace_cmdWbyte, hanswers, byteOfLevels_levelOfBit]

end Sys2Proof.Machine
end

section
/-! SUPPORT. Proofs: `MEASURE` as one update of the state by what its two resets find, and against the host's own
sequence (spec/42_measure_sequence.md R150 to R158). -/

namespace Sys2Proof.Machine

/-! ## The decoder's number in its register (R178) -/

/-- `TEMP10` holds the decoder's number as it is. -/
theorem decodeTemp_toInt_ofInt (mode : DecodeMode) (lsb msb : Byte) :
    (BitVec.ofInt 32 (decodeTemp mode lsb msb)).toInt = decodeTemp mode lsb msb := by
  obtain ⟨hlo, hhi⟩ := signExt_bounds mode (assembleBytes lsb msb)
  rw [BitVec.toInt_ofInt, Int.bmod_def, decodeTemp, round10]
  split <;> omega

/-- Steps 7 and 8 of `MEASURE` (R182), the 32-bit detour of `TEMP10` left out. -/
theorem decodeResult_eq (s : State) :
    decodeResult s
      = { s with
          t16 := BitVec.ofInt 32 (signExt s.decodeMode (rawOf s))
          temp10 := BitVec.ofInt 32 (decodeTemp s.decodeMode s.spLsb s.spMsb)
          valid := true } := by
  rw [decodeResult, signExt_toInt_ofInt]
  rfl

/-! ## The pieces of `MEASURE`, each as one update of the state (R150) -/

@[simp] theorem presenceOf_eq_true {v : Level} : presenceOf v = true ↔ v = .L := beq_iff_eq

/-- Step 1: the results cleared, and a reset slot answered `v`. -/
theorem measureStep1_eq {s : State} {v : Level} (hv : resetAnswer s.env (fullTrace s) s.choice = v) :
    measureStep1 s
      = { s with
          op := .measure, arg := 0, errcode := .none, errInd := false, cur := 0
          valid := false, spLsb := 0, spMsb := 0, t16 := 0, temp10 := 0
          presence := presenceOf v
          owOut := .H
          trace := fullTrace s ++ resetTrace v
          choice := s.choice + 1 } := by
  subst hv
  rw [measureStep1, resetSlot_eq, cmdBegin, flush_eq]
  rfl

/-- Steps 2 to 4: the two bytes, the conversion wait, and a reset slot answered `v`. -/
theorem measureSteps24_eq {s : State} {v : Level}
    (hv : resetAnswer s.env (s.trace ++ writeByteTrace 0xCC ++ writeByteTrace 0x44 ++ [.dly 750000]) s.choice = v) :
    measureSteps24 s
      = { s with
          shreg := 0x44
          presence := presenceOf v
          owOut := .H
          trace := s.trace ++ writeByteTrace 0xCC ++ writeByteTrace 0x44 ++ [.dly 750000] ++ resetTrace v
          choice := s.choice + 1 } := by
  subst hv
  rw [measureSteps24, writeByteSlots_eq, writeByteSlots_eq, resetSlot_eq]
  rfl

/-- Steps 5 to 8: the two bytes written, the two bytes of the answers `l` and `m` read, and their decoding. -/
theorem measureSteps58_eq {s : State} {l m : List Level}
    (hl : readAnswers s.env 8 (s.trace ++ writeByteTrace 0xCC ++ writeByteTrace 0xBE) s.choice = l)
    (hm : readAnswers s.env 8 (s.trace ++ writeByteTrace 0xCC ++ writeByteTrace 0xBE ++ readTraces l) (s.choice + 8)
      = m) :
    measureSteps58 s
      = { s with
          shreg := byteOfLevels m
          spLsb := byteOfLevels l
          spMsb := byteOfLevels m
          t16 := BitVec.ofInt 32 (signExt s.decodeMode (assembleBytes (byteOfLevels l) (byteOfLevels m)))
          temp10 := BitVec.ofInt 32 (decodeTemp s.decodeMode (byteOfLevels l) (byteOfLevels m))
          valid := true
          owOut := .H
          trace := s.trace ++ writeByteTrace 0xCC ++ writeByteTrace 0xBE ++ readTraces l ++ readTraces m
          choice := s.choice + 16 } := by
  subst hl hm
  rw [measureSteps58, writeByteSlots_eq, writeByteSlots_eq, readByteSlots_eq, readByteSlots_eq, decodeResult_eq]
  rfl

/-! ## The whole of `MEASURE`, by what its two resets find (R150, R151) -/

/-- The end of a `MEASURE` from `s` that finds a device at both resets, the host `n` ticks further on (R150). -/
def measured (n : Nat) (s : State) : State :=
  { afterCmd .measure n s with
    presence := true
    shreg := byteOfLevels (measureMsbAnswers s)
    spLsb := byteOfLevels (measureLsbAnswers s)
    spMsb := byteOfLevels (measureMsbAnswers s)
    t16 := BitVec.ofInt 32 (signExt s.decodeMode
      (assembleBytes (byteOfLevels (measureLsbAnswers s)) (byteOfLevels (measureMsbAnswers s))))
    temp10 := BitVec.ofInt 32
      (decodeTemp s.decodeMode (byteOfLevels (measureLsbAnswers s)) (byteOfLevels (measureMsbAnswers s)))
    valid := true
    trace := measureTrace2 (fullTrace s) ++ readTraces (measureLsbAnswers s) ++ readTraces (measureMsbAnswers s)
    choice := s.choice + 18 }

/-- The end of a `MEASURE` from `s` whose reset, the `k`-th sample of the command, finds nothing, the slots before it
having left `tr` in the trace and `d` in `SHREG` (R151, R192). -/
def measuredAbsence (n k : Nat) (d : Byte) (tr : List Event) (s : State) : State :=
  { afterCmd .measure n s with
    presence := false, valid := false, spLsb := 0, spMsb := 0, t16 := 0, temp10 := -9990
    shreg := d, errcode := .notPresent, errInd := true
    trace := tr ++ (resetTrace .H ++ [.ntf])
    choice := s.choice + k }

section
variable {s : State}

theorem measureStep1_presence :
    (measureStep1 s).presence = presenceOf (resetAnswer s.env (fullTrace s) s.choice) := by
  rw [measureStep1_eq rfl]

/-- What the second reset finds, after a first one that was answered `L`. -/
theorem measureSteps24_presence (h1 : resetAnswer s.env (fullTrace s) s.choice = .L) :
    (measureSteps24 (measureStep1 s)).presence
      = presenceOf (resetAnswer s.env (measureTrace1 (fullTrace s) .L) (s.choice + 1)) := by
  rw [measureSteps24_eq rfl, measureStep1_eq h1]
  rfl

theorem cmdMeasure_firstExit (n : Nat) (h1 : resetAnswer s.env (fullTrace s) s.choice = .H) :
    { cmdMeasure s with host := hostAfterBusy n s.host } = measuredAbsence n 1 s.shreg (fullTrace s) s := by
  have habsent : (measureStep1 s).presence ≠ true := by simp [measureStep1_presence, h1]
  rw [cmdMeasure, if_neg habsent, measureStep1_eq h1, measuredAbsence, ← List.append_assoc]
  rfl

theorem cmdMeasure_secondExit (n : Nat) (h1 : resetAnswer s.env (fullTrace s) s.choice = .L)
    (h2 : resetAnswer s.env (measureTrace1 (fullTrace s) .L) (s.choice + 1) = .H) :
    { cmdMeasure s with host := hostAfterBusy n s.host }
      = measuredAbsence n 2 0x44 (measureTrace1 (fullTrace s) .L) s := by
  have hfound : (measureStep1 s).presence = true := by simp [measureStep1_presence, h1]
  have habsent : (measureSteps24 (measureStep1 s)).presence ≠ true := by simp [measureSteps24_presence h1, h2]
  rw [cmdMeasure, if_pos hfound, if_neg habsent, measureStep1_eq h1, measureSteps24_eq h2, measuredAbsence,
    ← List.append_assoc]
  rfl

theorem cmdMeasure_success (n : Nat) (h1 : resetAnswer s.env (fullTrace s) s.choice = .L)
    (h2 : resetAnswer s.env (measureTrace1 (fullTrace s) .L) (s.choice + 1) = .L) :
    { cmdMeasure s with host := hostAfterBusy n s.host } = measured n s := by
  have hfound1 : (measureStep1 s).presence = true := by simp [measureStep1_presence, h1]
  have hfound2 : (measureSteps24 (measureStep1 s)).presence = true := by simp [measureSteps24_presence h1, h2]
  rw [cmdMeasure, if_pos hfound1, if_pos hfound2, measureStep1_eq h1, measureSteps24_eq h2, measureSteps58_eq rfl rfl]
  rfl

/-- The same, the host's list untouched. -/
theorem cmdMeasure_eq_measured (h1 : resetAnswer s.env (fullTrace s) s.choice = .L)
    (h2 : resetAnswer s.env (measureTrace1 (fullTrace s) .L) (s.choice + 1) = .L) :
    cmdMeasure s = measured 0 s :=
  (cmdMeasure_setHost s.host s).trans (cmdMeasure_success 0 h1 h2)

end

/-! ## `MEASURE` in ticks (R154) -/

/-- Settles O20: the ticks end as the rule of `MEASURE` does where both resets are answered `L`. -/
theorem measureSucceeds : Obligations.MeasureSucceeds := by
  intro s hb hr h1 h2
  have hduration : measureDuration s = 755244 :=
    measureDuration_success (by simp [measureStep1_presence, h1]) (by simp [measureSteps24_presence h1, h2])
  have hrun := completesIn_measure hb (hduration ▸ hr)
  rw [hduration, cmdMeasure_success _ h1 h2] at hrun
  exact hrun

/-- Settles O21: the ticks end as the rule of `MEASURE` does at its first exit. -/
theorem measureFirstExit : Obligations.MeasureFirstExit := by
  intro s hb hr h1
  have hrun := completesIn_measure_firstExit hb (by simp [measureStep1_presence, h1, presenceOf]) hr
  rw [cmdMeasure_firstExit _ h1] at hrun
  exact hrun

/-- Settles O22: the ticks end as the rule of `MEASURE` does at its second exit. -/
theorem measureSecondExit : Obligations.MeasureSecondExit := by
  intro s hb hr h1 h2
  have hduration : measureDuration s = 753180 :=
    measureDuration_secondExit (by simp [measureStep1_presence, h1])
      (by simp [measureSteps24_presence h1, h2, presenceOf])
  have hrun := completesIn_measure hb (hduration ▸ hr)
  rw [hduration, cmdMeasure_secondExit _ h1 h2] at hrun
  exact hrun

/-! ## `MEASURE` against the host's own sequence (R158) -/

theorem cmdReset_eq (s : State) :
    cmdReset s
      = { afterCmd .reset 0 s with
          presence := presenceOf (resetAnswer s.env (fullTrace s) s.choice)
          trace := fullTrace s ++ resetTrace (resetAnswer s.env (fullTrace s) s.choice)
          choice := s.choice + 1 } :=
  (runCmd_setHost .reset s.host s).trans (cmdReset_eq_afterCmd 0 s)

@[simp] theorem cmdReset_env (s : State) : (cmdReset s).env = s.env := by rw [cmdReset_eq]; rfl
@[simp] theorem cmdReset_choice (s : State) : (cmdReset s).choice = s.choice + 1 := by rw [cmdReset_eq]
@[simp] theorem cmdReset_presence (s : State) :
    (cmdReset s).presence = presenceOf (resetAnswer s.env (fullTrace s) s.choice) := by rw [cmdReset_eq]
@[simp] theorem fullTrace_cmdReset (s : State) :
    fullTrace (cmdReset s) = fullTrace s ++ resetTrace (resetAnswer s.env (fullTrace s) s.choice) := by
  rw [cmdReset_eq]
  exact fullTrace_of_cur_eq_zero rfl

@[simp] theorem cmdWbyte_env (d : Byte) (s : State) : (cmdWbyte d s).env = s.env := by rw [cmdWbyte_eq]; rfl
@[simp] theorem cmdWbyte_choice (d : Byte) (s : State) : (cmdWbyte d s).choice = s.choice := by rw [cmdWbyte_eq]; rfl
@[simp] theorem cmdWbyte_cur (d : Byte) (s : State) : (cmdWbyte d s).cur = 0 := by rw [cmdWbyte_eq]; rfl

@[simp] theorem cmdRbyte_env (s : State) : (cmdRbyte s).env = s.env := by rw [cmdRbyte_eq]; rfl
@[simp] theorem cmdRbyte_choice (s : State) : (cmdRbyte s).choice = s.choice + 8 := by rw [cmdRbyte_eq]
@[simp] theorem cmdRbyte_cur (s : State) : (cmdRbyte s).cur = 0 := by rw [cmdRbyte_eq]; rfl
theorem cmdRbyte_data (s : State) :
    (cmdRbyte s).data = byteOfLevels (readAnswers s.env 8 (fullTrace s) s.choice) := by rw [cmdRbyte_eq]
theorem fullTrace_cmdRbyte (s : State) :
    fullTrace (cmdRbyte s) = fullTrace s ++ readTraces (readAnswers s.env 8 (fullTrace s) s.choice) := by
  rw [cmdRbyte_eq]
  exact fullTrace_of_cur_eq_zero rfl

@[simp] theorem gapOf_env (g : Nat) (s : State) : (gapOf g s).env = s.env := by unfold gapOf; split <;> rfl
@[simp] theorem gapOf_choice (g : Nat) (s : State) : (gapOf g s).choice = s.choice := by unfold gapOf; split <;> rfl

/-- A gap after a command is one delay (R74). -/
theorem fullTrace_gapOf {g : Nat} {s : State} (hg : g ≠ 0) (hc : s.cur = 0) :
    fullTrace (gapOf g s) = fullTrace s ++ [.dly g] := by
  simp [gapOf, fullTrace, hg, hc]

/-- The host's own sequence up to its second `RESET` has the trace of `MEASURE` so far. -/
theorem fullTrace_hostSequence_toReset2 {s : State} (h1 : resetAnswer s.env (fullTrace s) s.choice = .L) :
    fullTrace (gapOf 750000 (cmdWbyte 0x44 (cmdWbyte 0xCC (cmdReset s)))) = measureTrace1 (fullTrace s) .L := by
  rw [fullTrace_gapOf (by decide) (cmdWbyte_cur _ _), fullTrace_cmdWbyte, fullTrace_cmdWbyte, fullTrace_cmdReset, h1]
  rfl

/-- From the second `RESET` on: a host that left the trace `measureTrace1` and met the answer `L` reads, with
`SKIPROM`, `READSP` and two `RBYTE`, the two bytes of `MEASURE`, and leaves its trace (R150, steps 5 and 6). -/
theorem hostSequence_fromReset2 {s g r : State} (henv : g.env = s.env) (hchoice : g.choice = s.choice + 1)
    (htrace : fullTrace g = measureTrace1 (fullTrace s) .L)
    (h2 : resetAnswer s.env (measureTrace1 (fullTrace s) .L) (s.choice + 1) = .L)
    (hr : r = cmdRbyte (cmdWbyte 0xBE (cmdWbyte 0xCC (cmdReset g)))) :
    r.data = byteOfLevels (measureLsbAnswers s) ∧ (cmdRbyte r).data = byteOfLevels (measureMsbAnswers s)
      ∧ fullTrace (cmdRbyte r)
        = measureTrace2 (fullTrace s) ++ readTraces (measureLsbAnswers s) ++ readTraces (measureMsbAnswers s) := by
  have hbefore : fullTrace (cmdWbyte 0xBE (cmdWbyte 0xCC (cmdReset g))) = measureTrace2 (fullTrace s) := by
    rw [fullTrace_cmdWbyte, fullTrace_cmdWbyte, fullTrace_cmdReset, henv, hchoice, htrace, h2]
    rfl
  have hlsb : readAnswers (cmdWbyte 0xBE (cmdWbyte 0xCC (cmdReset g))).env 8 (measureTrace2 (fullTrace s))
      (cmdWbyte 0xBE (cmdWbyte 0xCC (cmdReset g))).choice = measureLsbAnswers s := by
    simp only [cmdWbyte_env, cmdReset_env, cmdWbyte_choice, cmdReset_choice, henv, hchoice]
    rfl
  have hbetween : fullTrace r = measureTrace2 (fullTrace s) ++ readTraces (measureLsbAnswers s) := by
    rw [hr, fullTrace_cmdRbyte, hbefore, hlsb]
  have hmsb : readAnswers r.env 8 (fullTrace r) r.choice = measureMsbAnswers s := by
    rw [hbetween, hr]
    simp only [cmdRbyte_env, cmdWbyte_env, cmdReset_env, cmdRbyte_choice, cmdWbyte_choice, cmdReset_choice, henv,
      hchoice]
    rfl
  refine ⟨?_, ?_, ?_⟩
  · rw [hr, cmdRbyte_data, hbefore, hlsb]
  · rw [cmdRbyte_data, hmsb]
  · rw [fullTrace_cmdRbyte, hmsb, hbetween]

/-- Settles O29: slot by slot the same trace, so the same answers, bytes and decoding. -/
theorem measureEqualsItsExpansion : Obligations.MeasureEqualsItsExpansion := by
  intro s h1 h2 r1 r2 eh1 eh2 er1 er2 hfound1 hfound2
  have henv : (gapOf 750000 h1).env = s.env := by simp only [gapOf_env, eh1, cmdWbyte_env, cmdReset_env]
  have hchoice : (gapOf 750000 h1).choice = s.choice + 1 := by
    simp only [gapOf_choice, eh1, cmdWbyte_choice, cmdReset_choice]
  have ha1 : resetAnswer s.env (fullTrace s) s.choice = .L := by simpa using hfound1
  have htrace : fullTrace (gapOf 750000 h1) = measureTrace1 (fullTrace s) .L := by
    rw [eh1, fullTrace_hostSequence_toReset2 ha1]
  have ha2 : resetAnswer s.env (measureTrace1 (fullTrace s) .L) (s.choice + 1) = .L := by
    rwa [eh2, cmdReset_presence, presenceOf_eq_true, henv, hchoice, htrace] at hfound2
  obtain ⟨hlsb, hmsb, hend⟩ := hostSequence_fromReset2 henv hchoice htrace ha2 (er1.trans (by rw [eh2]))
  rw [fullTrace_of_cur_eq_zero (cmdRbyte_cur r1)] at hend
  rw [cmdMeasure_eq_measured ha1 ha2, er2, hlsb, hmsb, hend]
  exact ⟨rfl, rfl, rfl, decodeTemp_toInt_ofInt _ _ _⟩

end Sys2Proof.Machine
end

section
/-! SUPPORT. Proofs: what `SensorStub` answers slot by slot, and `MEASURE` under it (spec/20_memory.md R66, R82;
spec/42_measure_sequence.md R150, R157). -/

namespace Sys2Proof.Machine

/-! ## The pointer of `SensorStub`, slot by slot (R82) -/

/-- The pointer `k` of `SensorStub` after a trace, oldest event first. -/
def sensorPointer (tr : List Event) : Nat := bitSamplesSinceReset tr.reverse

/-- A reset slot puts the pointer back to 0, whatever came before it. -/
theorem sensorPointer_append_resetTrace (tr : List Event) (v : Level) : sensorPointer (tr ++ resetTrace v) = 0 := by
  simp [sensorPointer, resetTrace, bitSamplesSinceReset, atPresenceSample]

theorem sensorPointer_append_readTrace (tr : List Event) (v : Level) :
    sensorPointer (tr ++ readTrace v) = sensorPointer tr + 1 := by
  simp [sensorPointer, readTrace, bitSamplesSinceReset, atPresenceSample, atBitSample, tRds, tRsts]

theorem sensorPointer_append_writeTrace (tr : List Event) (b : Bool) :
    sensorPointer (tr ++ writeTrace b) = sensorPointer tr := by
  simp [sensorPointer, writeTrace, bitSamplesSinceReset]

theorem sensorPointer_append_writeSlots (f : Nat → Bool) (js : List Nat) (tr : List Event) :
    sensorPointer (tr ++ js.flatMap fun j => writeTrace (f j)) = sensorPointer tr := by
  induction js generalizing tr with
  | nil => rw [List.flatMap_nil, List.append_nil]
  | cons j js ih => rw [List.flatMap_cons, ← List.append_assoc, ih, sensorPointer_append_writeTrace]

theorem sensorPointer_append_writeByteTrace (tr : List Event) (d : Byte) :
    sensorPointer (tr ++ writeByteTrace d) = sensorPointer tr :=
  sensorPointer_append_writeSlots (fun j => d.getLsbD j) (List.range 8) tr

theorem sensorPointer_append_readTraces (tr : List Event) (vs : List Level) :
    sensorPointer (tr ++ readTraces vs) = sensorPointer tr + vs.length := by
  induction vs generalizing tr with
  | nil => rw [readTraces, List.flatMap_nil, List.append_nil, List.length_nil, Nat.add_zero]
  | cons v vs ih =>
    rw [readTraces, List.flatMap_cons, ← readTraces, ← List.append_assoc, ih, sensorPointer_append_readTrace,
      List.length_cons]
    omega

/-! ## Its answers (R82) -/

section
variable {lsb msb : Byte} {tr : List Event} (choice : Nat)

/-- A reset slot is answered by a device. -/
theorem resetAnswer_sensor : resetAnswer (.sensor lsb msb) tr choice = .L := by
  simp [resetAnswer, envAnswer, sensorAnswer, atPresenceSample]

/-- A read slot is answered with the bit of `{msb, lsb}` at the pointer. -/
theorem readAnswer_sensor (hk : sensorPointer tr < 16) :
    readAnswer (.sensor lsb msb) tr choice = levelOfBit ((msb ++ lsb).getLsbD (sensorPointer tr)) := by
  have hopening : (tr ++ [Event.drv .L, .dly tRdl, .drv .H, .dly tRds]).reverse
      = .dly tRds :: .drv .H :: .dly tRdl :: .drv .L :: tr.reverse := by simp
  have hbit (rev : List Event) : atPresenceSample (.dly tRds :: rev) = false := by
    simp [atPresenceSample, tRds, tRsts]
  rw [readAnswer, envAnswer, hopening, sensorAnswer, hbit]
  exact if_pos hk

/-- Read slots are answered with the bits from the pointer on, as long as there are any. -/
theorem readAnswers_sensor (n : Nat) (hk : sensorPointer tr + n ≤ 16) :
    readAnswers (.sensor lsb msb) n tr choice
      = ((List.range' (sensorPointer tr) n).map fun i => (msb ++ lsb).getLsbD i).map levelOfBit := by
  induction n generalizing tr choice with
  | zero => rfl
  | succ n ih =>
    have hnext := sensorPointer_append_readTrace tr (levelOfBit ((msb ++ lsb).getLsbD (sensorPointer tr)))
    rw [readAnswers_succ, readAnswer_sensor choice (by omega), ih (choice + 1) (by omega), hnext, List.range'_succ,
      List.map_cons, List.map_cons]

/-- Eight read slots give the byte of `{msb, lsb}` that starts at the pointer. -/
theorem byteOfLevels_readAnswers_sensor (hk : sensorPointer tr + 8 ≤ 16) :
    byteOfLevels (readAnswers (.sensor lsb msb) 8 tr choice) = (msb ++ lsb).extractLsb' (sensorPointer tr) 8 := by
  apply BitVec.eq_of_getLsbD_eq
  intro i hi
  have hlevel (b : Bool) : (levelOfBit b == .H) = b := by cases b <;> rfl
  rw [readAnswers_sensor choice 8 hk, getLsbD_byteOfLevels _ hi, BitVec.getLsbD_extractLsb']
  simp [List.getD_eq_getElem?_getD, hi, hlevel]

end

@[simp] theorem length_readAnswers (env : LineEnv) (n : Nat) (tr : List Event) (choice : Nat) :
    (readAnswers env n tr choice).length = n := by
  induction n generalizing tr choice with
  | zero => rfl
  | succ n ih => rw [readAnswers_succ, List.length_cons, ih]

/-! ## `MEASURE` of a sensor (R66, R150) -/

/-- After the second reset slot nothing is read before the first read slot. -/
theorem sensorPointer_measureTrace2 (tr : List Event) : sensorPointer (measureTrace2 tr) = 0 := by
  rw [measureTrace2, sensorPointer_append_writeByteTrace, sensorPointer_append_writeByteTrace,
    sensorPointer_append_resetTrace]

section
variable {s : State} {lsb msb : Byte} (he : s.env = .sensor lsb msb)
include he

theorem byteOfLevels_measureLsbAnswers_of_sensor : byteOfLevels (measureLsbAnswers s) = lsb := by
  have hpointer := sensorPointer_measureTrace2 (fullTrace s)
  rw [measureLsbAnswers, he, byteOfLevels_readAnswers_sensor _ (by rw [hpointer]; decide), hpointer]
  exact BitVec.extractLsb'_append_eq_right

theorem byteOfLevels_measureMsbAnswers_of_sensor : byteOfLevels (measureMsbAnswers s) = msb := by
  have hpointer : sensorPointer (measureTrace2 (fullTrace s) ++ readTraces (measureLsbAnswers s)) = 8 := by
    rw [sensorPointer_append_readTraces, sensorPointer_measureTrace2, measureLsbAnswers, length_readAnswers]
  rw [measureMsbAnswers, he, byteOfLevels_readAnswers_sensor _ (by rw [hpointer]), hpointer]
  exact BitVec.extractLsb'_append_eq_left

theorem cmdMeasure_eq_measured_of_sensor : cmdMeasure s = measured 0 s :=
  cmdMeasure_eq_measured (by rw [he, resetAnswer_sensor]) (by rw [he, resetAnswer_sensor])

/-- The results of a `MEASURE` are those of the sensor's two bytes. -/
theorem measured_results_of_sensor (n : Nat) :
    (measured n s).spLsb = lsb ∧ (measured n s).spMsb = msb
      ∧ (measured n s).t16 = BitVec.ofInt 32 (signExt s.decodeMode (assembleBytes lsb msb))
      ∧ (measured n s).temp10 = BitVec.ofInt 32 (decodeTemp s.decodeMode lsb msb) := by
  rw [measured, byteOfLevels_measureLsbAnswers_of_sensor he, byteOfLevels_measureMsbAnswers_of_sensor he]
  exact ⟨rfl, rfl, rfl, rfl⟩

end

/-- Settles O31: `MEASURE` succeeds, and the sixteen answers are the sensor's two bytes. -/
theorem sensorStubIsMeasured : Obligations.SensorStubIsMeasured := by
  intro s lsb msb hb he hr
  obtain ⟨hlsb, hmsb, ht16, htemp10⟩ := measured_results_of_sensor he 755244
  have hrun : CompletesIn .measure s 755244 (measured 755244 s) :=
    measureSucceeds s hb hr (by rw [he, resetAnswer_sensor]) (by rw [he, resetAnswer_sensor])
  refine ⟨_, hrun, hlsb, hmsb, rfl, rfl, rfl, ?_, ?_, rfl⟩
  · rw [ht16, signExt_toInt_ofInt]
  · rw [htemp10, decodeTemp_toInt_ofInt]

/-- Settles O32: neither measurement reports anything but the sensor's two bytes, and the first changes neither the
sensor nor the strap. -/
theorem measureIsIdempotent : Obligations.MeasureIsIdempotent := by
  intro s lsb msb he
  have he' : (measured 0 s).env = .sensor lsb msb := he
  obtain ⟨hlsb, hmsb, ht16, htemp10⟩ := measured_results_of_sensor he 0
  obtain ⟨hlsb', hmsb', ht16', htemp10'⟩ := measured_results_of_sensor he' 0
  rw [cmdMeasure_eq_measured_of_sensor he, cmdMeasure_eq_measured_of_sensor he', hlsb', hmsb', ht16', htemp10']
  exact ⟨hlsb.symm, hmsb.symm, ht16.symm, htemp10.symm, rfl⟩

end Sys2Proof.Machine
end

section
/-! SUPPORT. Proofs: the sentinel in `TEMP10`, and what `GETWATERTEMP` makes of it (spec/42_measure_sequence.md R156;
spec/70_reset_and_hazards.md R229). -/

namespace Sys2Proof.Machine

/-- The values that round to a given number of tenths (R175). -/
theorem round10_eq_iff (t n : Int) : round10 t = n ↔ 16 * n - 8 ≤ 10 * t ∧ 10 * t < 16 * n + 8 := by
  rw [round10]
  omega

/-- Only 0xC190 is decoded to the sentinel's number, and only in `TWOS16` (R229). -/
theorem round10_signExt_eq_sentinel_iff (mode : DecodeMode) (raw : BitVec 16) :
    round10 (signExt mode raw) = -9990 ↔ mode = .twos16 ∧ raw = 0xC190 := by
  rw [round10_eq_iff]
  cases mode with
  | twos16 =>
    have hraw : raw = 0xC190 ↔ raw.toInt = -15984 := BitVec.toInt_inj.symm
    rw [hraw, signExt]
    constructor
    · intro h
      exact ⟨rfl, by omega⟩
    · rintro ⟨-, h⟩
      omega
  | legacy4096 =>
    have hlow : -2048 ≤ signExt .legacy4096 raw := by
      rw [signExt]
      split <;> omega
    constructor
    · intro h
      omega
    · rintro ⟨h, -⟩
      cases h

/-- On absence `TEMP10` is the sentinel. -/
theorem BlockInv.temp10_of_absence {s : State} (h : BlockInv s) (he : s.errcode = .notPresent) :
    s.temp10.toInt = -9990 ∧ s.valid = false := by
  obtain ⟨-, -, hrecorded⟩ := h
  obtain ⟨-, htemp10, hvalid, -⟩ := hrecorded he
  rw [htemp10]
  exact ⟨by decide, hvalid⟩

/-- With a result, `TEMP10` is the decoder's number, and no absence is recorded. -/
theorem BlockInv.temp10_of_valid {s : State} (h : BlockInv s) (hv : s.valid = true) :
    s.temp10.toInt = decodeTemp s.decodeMode s.spLsb s.spMsb ∧ s.errcode ≠ .notPresent := by
  refine ⟨?_, fun he => ?_⟩
  · obtain ⟨-, hdecoded, -⟩ := h
    obtain ⟨-, htemp10⟩ := hdecoded hv
    rw [htemp10, decodeTemp_toInt_ofInt]
  · obtain ⟨-, hinvalid⟩ := h.temp10_of_absence he
    rw [hinvalid] at hv
    cases hv

theorem getWaterTemp_of_absence {s : State} (he : s.errcode = .notPresent) : getWaterTemp s = -999 := if_pos he

theorem getWaterTemp_of_present {s : State} (he : s.errcode ≠ .notPresent) :
    getWaterTemp s = (s.temp10.toInt : Rat) / 10 := if_neg he

/-- Settles O56: an absence leaves the sentinel, a result the decoder's number, which is the sentinel's on 0xC190
alone. -/
theorem sentinelWrapper : Obligations.SentinelWrapper := by
  intro s hinv hrecorded
  refine ⟨?_, fun he => ?_, fun hv => ?_⟩
  · rcases hrecorded with hv | he
    · obtain ⟨htemp10, hpresent⟩ := hinv.temp10_of_valid hv
      rw [htemp10, or_iff_right hpresent]
      exact round10_signExt_eq_sentinel_iff s.decodeMode (rawOf s)
    · exact iff_of_true (hinv.temp10_of_absence he).1 (.inl he)
  · obtain ⟨htemp10, -⟩ := hinv.temp10_of_absence he
    rw [getWaterTemp_of_absence he, htemp10]
    norm_num
  · obtain ⟨htemp10, hpresent⟩ := hinv.temp10_of_valid hv
    rw [getWaterTemp_of_present hpresent, htemp10]

end Sys2Proof.Machine
end

section
/-! SUPPORT. Proofs: the decoder's functions one by one, and what they make of a raw value
(spec/43_scratchpad_decoder.md R170 to R181). -/

namespace Sys2Proof.Machine

/-! ## Assembling the two bytes (R170) -/

theorem assembleBytes_eq_append (lsb msb : Byte) : assembleBytes lsb msb = msb ++ lsb := by
  apply BitVec.eq_of_toNat_eq
  rw [assembleBytes_toNat, BitVec.toNat_append, ← Nat.shiftLeft_add_eq_or_of_lt lsb.isLt, Nat.shiftLeft_eq,
    Nat.mul_comm]

theorem eq_of_assembleBytes_swap {lsb msb : Byte} (h : assembleBytes lsb msb = assembleBytes msb lsb) : lsb = msb := by
  have hnum := congrArg BitVec.toNat h
  rw [assembleBytes_toNat, assembleBytes_toNat] at hnum
  exact BitVec.eq_of_toNat_eq (by omega)

/-- Settles O46: the assembled word is the concatenation, read as a sum. -/
theorem assembleIsTheSum : Obligations.AssembleIsTheSum := fun lsb msb =>
  ⟨assembleBytes_toNat lsb msb, assembleBytes_eq_append lsb msb, eq_of_assembleBytes_swap⟩

/-! ## `SIGNEXT` and `S12` as numbers (R172, R173) -/

theorem signExt_twos16 (raw : BitVec 16) :
    signExt .twos16 raw = if raw.toNat ≤ 0x7FFF then (raw.toNat : Int) else raw.toNat - 65536 := by
  rw [signExt, BitVec.toInt_eq_toNat_cond]
  split <;> split <;> omega

theorem signExt_legacy4096 (raw : BitVec 16) :
    signExt .legacy4096 raw = if 0x7FF < raw.toNat then (raw.toNat : Int) - 4096 else raw.toNat := rfl

/-- The twelve low bits as a signed number. -/
theorem s12_eq (raw : BitVec 16) :
    s12 raw = if raw.toNat % 4096 ≤ 0x7FF then (raw.toNat % 4096 : Int) else raw.toNat % 4096 - 4096 := by
  rw [s12, BitVec.toInt_eq_toNat_cond, BitVec.toNat_setWidth]
  split <;> split <;> omega

section
variable {raw : BitVec 16}

theorem signExt_twos16_of_le (h : raw.toNat ≤ 0x7FFF) : signExt .twos16 raw = raw.toNat := by
  rw [signExt_twos16, if_pos h]

theorem signExt_twos16_of_lt (h : 0x7FFF < raw.toNat) : signExt .twos16 raw = raw.toNat - 65536 := by
  rw [signExt_twos16, if_neg (by omega)]

theorem signExt_legacy4096_of_le (h : raw.toNat ≤ 0x07FF) : signExt .legacy4096 raw = raw.toNat := by
  rw [signExt_legacy4096, if_neg (by omega)]

theorem signExt_legacy4096_of_lt (h : 0x07FF < raw.toNat) : signExt .legacy4096 raw = raw.toNat - 4096 := by
  rw [signExt_legacy4096, if_pos h]

theorem s12_of_le (h : raw.toNat % 4096 ≤ 0x07FF) : s12 raw = raw.toNat % 4096 := by rw [s12_eq, if_pos h]

theorem s12_of_lt (h : 0x07FF < raw.toNat % 4096) : s12 raw = raw.toNat % 4096 - 4096 := by
  rw [s12_eq, if_neg (by omega)]

end

/-- Settles O48: both modes, each as its case split on the raw value. -/
theorem signExtInBothModes : Obligations.SignExtInBothModes := fun raw =>
  ⟨signExt_twos16 raw, signExt_legacy4096 raw⟩

/-! ## The two predicates on a raw value (R171) -/

/-- `SignExtOK` as a range of raw values: bits 15 to 11 are the number `raw / 2048`, all zeros or all ones. -/
theorem signExtOk_iff_toNat (raw : BitVec 16) : signExtOk raw = true ↔ raw.toNat ≤ 0x07FF ∨ 0xF800 ≤ raw.toNat := by
  have hlt := raw.isLt
  have htop : (raw.extractLsb' 11 5).toNat = raw.toNat / 2048 % 32 := by
    rw [BitVec.extractLsb'_toNat, Nat.shiftRight_eq_div_pow]
  simp only [signExtOk, Bool.or_eq_true, beq_iff_eq, ← BitVec.toNat_inj, htop,
    show (0 : BitVec 5).toNat = 0 by decide, show (0x1F : BitVec 5).toNat = 31 by decide]
  omega

/-- `SignExtOK` bit by bit. -/
theorem signExtOk_iff_bits (raw : BitVec 16) :
    signExtOk raw = true ↔ ∀ i, 11 ≤ i → i ≤ 15 → raw.getLsbD i = raw.getLsbD 15 := by
  have hfield : ∀ f : BitVec 5, (f = 0 ∨ f = 0x1F) ↔ ∀ k < 5, f.getLsbD k = f.getLsbD 4 := by decide
  simp only [signExtOk, Bool.or_eq_true, beq_iff_eq, hfield, BitVec.getLsbD_extractLsb']
  constructor
  · intro h i hlo hhi
    have hbit := h (i - 11) (by omega)
    simpa [show i - 11 < 5 by omega, show 11 + (i - 11) = i by omega] using hbit
  · intro h k hk
    simpa [hk] using h (11 + k) (by omega) (by omega)

theorem inSensorRange_iff_toInt (raw : BitVec 16) : inSensorRange raw = true ↔ -880 ≤ raw.toInt ∧ raw.toInt ≤ 2000 := by
  simp [inSensorRange]

theorem inSensorRange_iff_toNat (raw : BitVec 16) :
    inSensorRange raw = true ↔ raw.toNat ≤ 0x07D0 ∨ 0xFC90 ≤ raw.toNat := by
  have hlt := raw.isLt
  rw [inSensorRange_iff_toInt, BitVec.toInt_eq_toNat_cond]
  split <;> omega

theorem signExtOk_of_inSensorRange {raw : BitVec 16} (h : inSensorRange raw = true) : signExtOk raw = true := by
  rw [inSensorRange_iff_toNat] at h
  rw [signExtOk_iff_toNat]
  omega

/-- Settles O47: each predicate by its bits or its number, and as its two ranges of raw values, one inside the other. -/
theorem rawPredicates : Obligations.RawPredicates := fun raw =>
  ⟨signExtOk_iff_bits raw, signExtOk_iff_toNat raw, inSensorRange_iff_toInt raw, inSensorRange_iff_toNat raw,
    signExtOk_of_inSensorRange⟩

/-! ## How the decode modes relate (R173) -/

/-- Where the sign extension is proper, the low twelve bits say it all. -/
theorem signExt_twos16_eq_s12 {raw : BitVec 16} (h : signExtOk raw = true) : signExt .twos16 raw = s12 raw := by
  have hlt := raw.isLt
  rw [signExtOk_iff_toNat] at h
  rw [signExt_twos16, s12_eq]
  split <;> split <;> omega

/-- A proper sign extension of a number that is not negative is below 0x0800. -/
theorem toNat_le_of_signExtOk_of_nonneg {raw : BitVec 16} (h : signExtOk raw = true) (hsign : raw.getLsbD 15 = false) :
    raw.toNat ≤ 0x07FF := by
  have hhalf : 2 * raw.toNat < 2 ^ 16 := BitVec.msb_eq_false_iff_two_mul_lt.mp (raw.msb_eq_getLsbD_last.trans hsign)
  rw [signExtOk_iff_toNat] at h
  omega

/-- The gap between the two modes, over the three ranges of raw values. -/
theorem signExt_legacy4096_sub_twos16 (raw : BitVec 16) :
    signExt .legacy4096 raw - signExt .twos16 raw
      = if raw.toNat ≤ 0x07FF then 0 else if raw.toNat ≤ 0x7FFF then -4096 else 61440 := by
  rw [signExt_twos16, signExt_legacy4096]
  split_ifs <;> omega

/-- Settles O49: on each range of raw values the three readings are known numbers. -/
theorem decodeModesRelate : Obligations.DecodeModesRelate := by
  intro raw
  have hlt := raw.isLt
  refine ⟨fun h => ?_, fun hlo hhi => ?_, fun h => ?_, signExt_twos16_eq_s12, fun hok hsign => ?_,
    signExt_legacy4096_sub_twos16 raw⟩
  · rw [signExt_twos16_of_le (by omega), signExt_legacy4096_of_le h, s12_of_le (by omega)]
    omega
  · have hok : signExtOk raw = false := by
      rw [← Bool.not_eq_true, signExtOk_iff_toNat]
      omega
    rw [signExt_twos16_of_le (by omega), signExt_legacy4096_of_lt (by omega), s12_of_lt (by omega)]
    exact ⟨rfl, by omega, by omega, rfl, by omega, hok⟩
  · rw [signExt_twos16_of_lt (by omega), signExt_legacy4096_of_lt (by omega), s12_of_lt (by omega)]
    omega
  · have hsmall := toNat_le_of_signExtOk_of_nonneg hok hsign
    rw [signExt_twos16_of_le (by omega), signExt_legacy4096_of_le hsmall]

/-! ## `T16` as a fixed-point number (R174) -/

theorem wholeDegrees_toInt (t : Word32) : (wholeDegrees t).toInt = t.toInt / 16 := by
  rw [wholeDegrees, BitVec.toInt_sshiftRight, Int.shiftRight_eq_div_pow]
  rfl

/-- The four low bits are the remainder of the signed number too: its wrap, 2³², is a multiple of 16. -/
theorem sixteenths_toNat (t : Word32) : ((sixteenths t).toNat : Int) = t.toInt % 16 := by
  have hlow : (sixteenths t).toNat = t.toNat % 16 := by
    rw [sixteenths, BitVec.extractLsb'_toNat]
    rfl
  rw [hlow, BitVec.toInt_eq_toNat_cond]
  split <;> omega

/-- Settles O50: quotient and remainder of `T16` by 16. -/
theorem fixedPointParts : Obligations.FixedPointParts := by
  intro t
  refine ⟨wholeDegrees_toInt t, ?_⟩
  rw [wholeDegrees_toInt, sixteenths_toNat]
  exact (Int.mul_ediv_add_emod t.toInt 16).symm

/-! ## `ROUND10` (R175, R181) -/

theorem ten_mul_emod_sixteen_eq_eight_iff (t : Int) : (10 * t) % 16 = 8 ↔ t % 8 = 4 := by omega

/-- Away from ties, `−round10 t` is within half a tenth of `−t`. -/
theorem round10_neg {t : Int} (h : t % 8 ≠ 4) : round10 (-t) = -round10 t := by
  obtain ⟨hlo, hhi⟩ := (round10_eq_iff t _).mp rfl
  rw [round10_eq_iff]
  omega

/-- Settles O51: where `ROUND10` has a given value decides ties and symmetry. -/
theorem roundIsNearestTiesUp : Obligations.RoundIsNearestTiesUp := fun t n =>
  ⟨round10_eq_iff t n, ten_mul_emod_sixteen_eq_eight_iff t, round10_neg⟩

theorem round10_mono {t u : Int} (h : t ≤ u) : round10 t ≤ round10 u :=
  Int.ediv_le_ediv (by decide) (by omega)

/-- The error of rounding, in 160ths of a degree. -/
theorem abs_round10_error_le (t : Int) : |16 * round10 t - 10 * t| ≤ 8 := by
  obtain ⟨hlo, hhi⟩ := (round10_eq_iff t _).mp rfl
  rw [abs_le]
  omega

theorem abs_round10_error_eq_iff (t : Int) : |16 * round10 t - 10 * t| = 8 ↔ t % 8 = 4 := by
  obtain ⟨hlo, hhi⟩ := (round10_eq_iff t _).mp rfl
  rw [abs_eq (by decide)]
  omega

theorem round10_eight_mul (k : Int) : round10 (8 * k) = 5 * k := by
  rw [round10_eq_iff]
  omega

theorem round10_add_sixteen (t : Int) : round10 (t + 16) = round10 t + 10 := by
  obtain ⟨hlo, hhi⟩ := (round10_eq_iff t _).mp rfl
  rw [round10_eq_iff]
  omega

/-- Settles O52: each clause from where `ROUND10` has a given value; the sixteen values by evaluation. -/
theorem roundProperties : Obligations.RoundProperties :=
  ⟨fun _ _ => round10_mono, fun t => ⟨abs_round10_error_le t, abs_round10_error_eq_iff t⟩, round10_eight_mul,
    round10_add_sixteen, by decide⟩

/-! ## Ranges, and the 32-bit arithmetic (R178, R180) -/

theorem signExt_twos16_bounds (raw : BitVec 16) : -32768 ≤ signExt .twos16 raw ∧ signExt .twos16 raw ≤ 32767 := by
  have hlt := raw.isLt
  rw [signExt_twos16]
  split <;> omega

theorem signExt_legacy4096_bounds (raw : BitVec 16) :
    -2048 ≤ signExt .legacy4096 raw ∧ signExt .legacy4096 raw ≤ 61439 := by
  have hlt := raw.isLt
  rw [signExt_legacy4096]
  split <;> omega

/-- `ROUND10` takes a range to the range between its ends' values. -/
theorem round10_bounds {lo hi t : Int} (h : lo ≤ t ∧ t ≤ hi) : round10 lo ≤ round10 t ∧ round10 t ≤ round10 hi :=
  ⟨round10_mono h.1, round10_mono h.2⟩

/-- Settles O53: the ranges of `T16` per mode; the others are their images. -/
theorem decoderRanges : Obligations.DecoderRanges := by
  intro raw
  have htwos := signExt_twos16_bounds raw
  have hlegacy := signExt_legacy4096_bounds raw
  refine ⟨htwos, hlegacy, by omega, by omega, round10_bounds htwos, round10_bounds hlegacy, fun hin => ?_⟩
  have hsensor : -880 ≤ signExt .twos16 raw ∧ signExt .twos16 raw ≤ 2000 := (inSensorRange_iff_toInt raw).mp hin
  exact ⟨hsensor.1, hsensor.2, round10_bounds hsensor⟩

/-- `TEMP10` fits its register: the ends of its range do. -/
theorem round10_signExt_toInt_ofInt (mode : DecodeMode) (raw : BitVec 16) :
    (BitVec.ofInt 32 (round10 (signExt mode raw))).toInt = round10 (signExt mode raw) := by
  obtain ⟨hlo, hhi⟩ := round10_bounds (signExt_bounds mode raw)
  have hmin : round10 (-32768) = -20480 := by decide
  have hmax : round10 61439 = 38399 := by decide
  exact BitVec.toInt_ofInt_eq_self (by decide) (by omega) (by omega)

/-- Multiply, add and arithmetic shift are `ROUND10`, while `10 t` and `10 t + 8` fit 32 bits. -/
theorem round10Word_toInt {t : Word32} (hlo : -2147483648 ≤ 10 * t.toInt) (hhi : 10 * t.toInt + 8 < 2147483648) :
    (round10Word t).toInt = round10 t.toInt := by
  have hmul : (t * 10).toInt = 10 * t.toInt := by
    rw [BitVec.toInt_mul, show (10 : Word32).toInt = 10 by decide, Int.mul_comm,
      Int.bmod_eq_of_le (by omega) (by omega)]
  have hadd : (t * 10 + 8).toInt = 10 * t.toInt + 8 := by
    rw [BitVec.toInt_add, hmul, show (8 : Word32).toInt = 8 by decide, Int.bmod_eq_of_le (by omega) (by omega)]
  rw [round10Word, BitVec.toInt_sshiftRight, hadd, Int.shiftRight_eq_div_pow]
  rfl

/-- Settles O54: `T16` and `TEMP10` fit their registers, and so does `10 T16 + 8` on the way from one to the other. -/
theorem hardwareArithmeticIsExact : Obligations.HardwareArithmeticIsExact := by
  intro mode raw
  refine ⟨signExt_toInt_ofInt mode raw, round10_signExt_toInt_ofInt mode raw, BitVec.eq_of_toInt_eq ?_⟩
  obtain ⟨hlo, hhi⟩ := signExt_bounds mode raw
  have ht16 := signExt_toInt_ofInt mode raw
  rw [round10Word_toInt (by omega) (by omega), ht16, round10_signExt_toInt_ofInt]

/-! ## `FORMAT10` (R179) -/

theorem format10_tenth_lt (n : Int) : (format10 n).tenth < 10 := Nat.mod_lt _ (by decide)

theorem format10_neg_iff (n : Int) : (format10 n).neg = true ↔ n < 0 := decide_eq_true_iff

/-- Whole degrees and tenth make the number again, the sign aside. -/
theorem format10_natAbs (n : Int) : (10 * (format10 n).whole + (format10 n).tenth : Int) = n.natAbs := by
  simp only [format10]
  omega

theorem format10_value (n : Int) :
    n = (if (format10 n).neg then -1 else 1) * (10 * (format10 n).whole + (format10 n).tenth : Int) := by
  rw [format10_natAbs]
  split
  next hneg =>
    rw [format10_neg_iff] at hneg
    omega
  next hnonneg =>
    rw [format10_neg_iff] at hnonneg
    omega

/-- Settles O57: quotient and remainder of the absolute value by 10, the sign kept apart. -/
theorem formatIsTheNumber : Obligations.FormatIsTheNumber := fun n =>
  ⟨format10_value n, format10_tenth_lt n, format10_neg_iff n⟩

end Sys2Proof.Machine
end


section
/-! SUPPORT. Proofs: a command's start and its end clear the error code before it, and which step raises, keeps or lowers
`err_ind` (spec/60_exceptions.md R193, R196). -/

namespace Sys2Proof.Machine

/-! ## Errors are not sticky (R193) -/

theorem cmdWbyte_errcode (d : Byte) (s : State) : (cmdWbyte d s).errcode = .none := by
  rw [cmdWbyte_eq]
  rfl

/-- Only `MEASURE` can end with an error (R190, R193). -/
theorem runCmd_errcode {i : Instr} (hi : i ≠ .measure) (s : State) : (runCmd i s).errcode = .none := by
  cases i with
  | measure => exact absurd rfl hi
  | reset => rw [runCmd, cmdReset_eq]; rfl
  | wbit b => rw [runCmd, cmdWbit_eq]; rfl
  | rbit => rw [runCmd, cmdRbit_eq]; rfl
  | rbyte => rw [runCmd, cmdRbyte_eq]; rfl
  | wbyte d => exact cmdWbyte_errcode d s
  | skipRom | convertT | readSp => exact cmdWbyte_errcode _ s

/-- Settles O10: the acceptance writes `ERRCODE`, and of the command rules only that of `MEASURE` writes it again. -/
theorem errorsAreNotSticky : Obligations.ErrorsAreNotSticky := by
  intro i s hb
  obtain ⟨t, ht⟩ := exec_total i s
  obtain ⟨-, -, -, -, herr, -⟩ := exec_frame hb ht
  exact ⟨⟨t, ht, herr⟩, fun hi => runCmd_errcode hi s⟩

/-! ## `err_ind` (R196) -/

/-- What `MeasureNext` does to `err_ind` and `ERRCODE`: nothing, or it ends a measurement in `NotPresent`. -/
theorem measureNext_errInd_cases (s : State) :
    ((measureNext s).errInd = s.errInd ∧ (measureNext s).errcode = s.errcode)
      ∨ (s.mstep ≠ .idle ∧ (measureNext s).errInd = true ∧ (measureNext s).busy = false
        ∧ (measureNext s).errcode = .notPresent) := by
  rcases measureNext_cases s with
    ⟨-, e⟩ | ⟨hm, -, e⟩ | ⟨-, e⟩ | ⟨m, d, e, -⟩ | ⟨-, e⟩ | ⟨-, e⟩ | ⟨-, e⟩ | ⟨-, e⟩ <;> rw [e]
  case inr.inl =>
    refine .inr ⟨?_, rfl, rfl, rfl⟩
    rcases hm with hm | hm <;> exact hm.trans_ne (by decide)
  all_goals exact .inl (by simp)

/-- What a tick does to `err_ind` and `ERRCODE`: it lowers the one and leaves the other, or it ends a measurement in
`NotPresent`. -/
theorem tick_errInd_cases {s t : State} (h : tick s = .next t) :
    (t.errInd = false ∧ t.errcode = s.errcode)
      ∨ (s.mstep ≠ .idle ∧ t.errInd = true ∧ t.busy = false ∧ t.errcode = .notPresent) := by
  rcases tick_cases h with ⟨-, rfl⟩ | ⟨-, r, r2, -, -, -, rfl⟩ | ⟨-, r, -, -, rfl⟩
  · exact .inl ⟨rfl, rfl⟩
  · exact .inl (by simp)
  · rcases primDone_cases (sampleFor r.smp (flush (passTick s))) with ⟨-, -, e⟩ | ⟨-, -, e⟩ | ⟨-, e⟩ <;> rw [e]
    · exact .inl (by simp)
    · exact .inl (by simp)
    · simpa using
        measureNext_errInd_cases { sampleFor r.smp (flush (passTick s)) with byteMode := .none, bitIdx := 0 }

/-- A busy block's tick leaves `err_ind` high exactly when it ends a `MEASURE` with `ERRCODE = 1`: while a command runs
`ERRCODE` is 0, and only a `MEASURE` stands at a step of `MSTEP`. -/
theorem tick_errInd_iff {s t : State} (hrun : Running s) (h : tick s = .next t) :
    t.errInd = true ↔ s.op = .measure ∧ t.busy = false ∧ t.errcode = .notPresent := by
  rcases tick_errInd_cases h with ⟨hlow, herr⟩ | ⟨hm, hhigh, hend, herr⟩
  · simp [hlow, herr, hrun.errcode]
  · simp [hhigh, hend, herr, hrun.op_measure hm]

/-- Taking a word is no tick: `err_ind` stays as it is (R193, R196). -/
theorem exec_errInd {i : Instr} {s t : State} (h : exec i s = .next t) : t.errInd = s.errInd := by
  rcases exec_cases h with ⟨-, rfl⟩ | ⟨-, ⟨-, rfl⟩ | ⟨b, -, rfl⟩ | ⟨-, rfl⟩ | ⟨-, rfl⟩ | ⟨-, rfl⟩ | ⟨-, rfl⟩⟩
  · rfl
  all_goals simp [wordTaken]

theorem takeError_illegal_errInd (s : State) : (takeError .illegalCommand s).errInd = s.errInd := by
  rw [takeError_illegal_eq]

/-- Settles O42, by what a step can do: the busy tick, the idle tick, and the two ways a word is taken. -/
theorem errIndIsOneTick : Obligations.ErrIndIsOneTick := by
  intro s t hinv hr h
  rcases step_cases h with ⟨hr', -⟩ | ⟨-, hb, ht⟩ | ⟨-, hb, hf, rfl⟩ | ⟨-, hb, i, hf, ht⟩ | ⟨-, hb, e, hf, rfl⟩
  · exact absurd (hr.symm.trans hr') (by decide)
  · have hrun := ((blockInv_hostMoves hinv).running (by simpa using hb)).1
    simpa [hb] using tick_errInd_iff hrun ht
  · simp [hb, hf]
  · simpa [hb, hf] using exec_errInd ht
  · simp [hb, hf, takeError_illegal_errInd]

end Sys2Proof.Machine
end


section
/-! SUPPORT. Proofs: `rst`, the raw value that decodes to the sentinel, and the timing table of the commands
(spec/70_reset_and_hazards.md R220, R229, R235). -/

namespace Sys2Proof.Machine

/-! ## `rst` (R220) -/

/-- `rst` closes the growing `Dly` and releases the line where it was driven low. -/
theorem fullTrace_takeRst (s : State) :
    fullTrace (takeRst s) = fullTrace s ++ (if s.owOut = .L then [.drv .H] else []) := by
  rw [fullTrace_of_cur_eq_zero rfl]
  show (if s.owOut = .L then fullTrace s ++ [.drv .H] else fullTrace s) = _
  split
  · rfl
  · rw [List.append_nil]

/-- After `rst` another `rst` only moves the host on. -/
theorem takeRst_takeRst (s : State) :
    takeRst (takeRst s) = { takeRst s with host := (takeRst s).host.tail } := rfl

/-- Settles O11: the step is `takeRst`, whose every field is written out in the model. -/
theorem rstClearsEverything : Obligations.RstClearsEverything := by
  intro s hr
  refine ⟨takeRst s, step_of_rst hr, rfl, rfl, rfl, rfl, rfl, rfl, rfl, rfl,
    ⟨rfl, rfl, rfl, rfl, rfl, rfl, rfl, rfl⟩, rfl, rfl, rfl, rfl, rfl, rfl, rfl, fullTrace_takeRst s, fun hr' => ?_⟩
  rw [step_of_rst hr', takeRst_takeRst]

/-! ## The raw value of the sentinel (R229) -/

/-- Settles O55, from the one preimage of the sentinel over both modes. -/
theorem sentinelCollision : Obligations.SentinelCollision := by
  intro raw
  refine ⟨by simp [round10_signExt_eq_sentinel_iff], fun h => ?_⟩
  have hmode := ((round10_signExt_eq_sentinel_iff .legacy4096 raw).mp h).1
  cases hmode

/-! ## The timing table (R235) -/

/-- One row of the timing table of R235: the falling edges, the samples and the microseconds of a trace. -/
structure TimingRow where
  falls : Nat
  samples : Nat
  time : Nat

/-- The rows of two traces one after the other. -/
def TimingRow.add (c d : TimingRow) : TimingRow := ⟨c.falls + d.falls, c.samples + d.samples, c.time + d.time⟩

/-- The row of `n` traces of one row. -/
def TimingRow.times (n : Nat) (c : TimingRow) : TimingRow := ⟨n * c.falls, n * c.samples, n * c.time⟩

/-- A trace has the counts of a row, and it leaves the line released: whatever follows it from a released line has
its falling edges counted from a released line too. -/
structure HasRow (tr : List Event) (c : TimingRow) : Prop where
  falls : ∀ rest, fallingEdges .H (tr ++ rest) = c.falls + fallingEdges .H rest
  samples : (samplesOf tr).length = c.samples
  time : elapsed tr = c.time

theorem samplesOf_append (tr tr' : List Event) : samplesOf (tr ++ tr') = samplesOf tr ++ samplesOf tr' := by
  induction tr with
  | nil => rfl
  | cons e tr ih => cases e <;> simp [samplesOf, ih]

theorem HasRow.fallingEdges_eq {tr : List Event} {c : TimingRow} (h : HasRow tr c) : fallingEdges .H tr = c.falls := by
  simpa [fallingEdges] using h.falls []

theorem HasRow.append {tr tr' : List Event} {c c' : TimingRow} (h : HasRow tr c) (h' : HasRow tr' c') :
    HasRow (tr ++ tr') (c.add c') where
  falls rest := by rw [List.append_assoc, h.falls, h'.falls, ← Nat.add_assoc]; rfl
  samples := by rw [samplesOf_append, List.length_append, h.samples, h'.samples]; rfl
  time := by rw [elapsed_append, h.time, h'.time]; rfl

/-- Traces of one row, one after the other. -/
theorem HasRow.flatMap {α : Type} {g : α → List Event} {c : TimingRow} (h : ∀ a, HasRow (g a) c) (as : List α) :
    HasRow (as.flatMap g) (c.times as.length) := by
  induction as with
  | nil => constructor <;> simp [samplesOf, elapsed, TimingRow.times]
  | cons a as ih =>
    have hsum := (h a).append ih
    have hrow : c.add (c.times as.length) = c.times (a :: as).length := by
      simp only [TimingRow.add, TimingRow.times, List.length_cons, Nat.succ_mul, Nat.add_comm]
    rwa [hrow] at hsum

theorem hasRow_resetTrace (v : Level) : HasRow (resetTrace v) ⟨1, 1, 1070⟩ :=
  ⟨fun rest => by simp [resetTrace, fallingEdges], rfl, rfl⟩

theorem hasRow_writeTrace (b : Bool) : HasRow (writeTrace b) ⟨1, 0, 65⟩ :=
  ⟨fun rest => by simp [writeTrace, fallingEdges], rfl, elapsed_writeTrace b⟩

theorem hasRow_readTrace (v : Level) : HasRow (readTrace v) ⟨1, 1, 64⟩ :=
  ⟨fun rest => by simp [readTrace, fallingEdges], rfl, rfl⟩

theorem hasRow_dly (n : Nat) : HasRow [.dly n] ⟨0, 0, n⟩ :=
  ⟨fun rest => by simp [fallingEdges], rfl, rfl⟩

theorem hasRow_ntf : HasRow [.ntf] ⟨0, 0, 0⟩ := ⟨fun rest => by simp [fallingEdges], rfl, rfl⟩

/-- A written byte is eight write slots (R141). -/
theorem hasRow_writeByteTrace (d : Byte) : HasRow (writeByteTrace d) ⟨8, 0, 520⟩ :=
  HasRow.flatMap (fun i => hasRow_writeTrace (d.getLsbD i)) (List.range 8)

/-- A read byte is eight read slots (R143). -/
theorem hasRow_readByte (env : LineEnv) (tr : List Event) (choice : Nat) :
    HasRow (readTraces (readAnswers env 8 tr choice)) ⟨8, 8, 512⟩ := by
  have h := HasRow.flatMap hasRow_readTrace (readAnswers env 8 tr choice)
  rwa [length_readAnswers] at h

/-! ### `MEASURE` (R154) -/

/-- What `MEASURE` puts on the line up to its second reset, apart from the trace before it. -/
theorem measureTrace1_eq_append (tr : List Event) (v : Level) : measureTrace1 tr v = tr ++ measureTrace1 [] v := by
  simp [measureTrace1]

theorem measureTrace2_eq_append (tr : List Event) : measureTrace2 tr = tr ++ measureTrace2 [] := by
  simp [measureTrace2, measureTrace1]

theorem hasRow_measureTrace1 (v : Level) : HasRow (measureTrace1 [] v) ⟨17, 1, 752110⟩ :=
  (((hasRow_resetTrace v).append (hasRow_writeByteTrace 0xCC)).append (hasRow_writeByteTrace 0x44)).append
    (hasRow_dly 750000)

theorem hasRow_measureTrace2 : HasRow (measureTrace2 []) ⟨34, 2, 754220⟩ :=
  (((hasRow_measureTrace1 .L).append (hasRow_resetTrace .L)).append (hasRow_writeByteTrace 0xCC)).append
    (hasRow_writeByteTrace 0xBE)

/-- The reset that ends a failing `MEASURE`, and its `Notify` (R151). -/
theorem hasRow_absence : HasRow (resetTrace .H ++ [.ntf]) ⟨1, 1, 1070⟩ := (hasRow_resetTrace .H).append hasRow_ntf

/-- The whole trace of a `MEASURE` at each of its three ends (R150, R151): what it appends has one of the three rows,
and lasts the duration of `MEASURE`. -/
theorem hasRow_cmdMeasure (s : State) :
    ∃ tr c, fullTrace (cmdMeasure s) = fullTrace s ++ tr ∧ HasRow tr c ∧ c.time = measureDuration s
      ∧ (c = ⟨50, 18, 755244⟩ ∨ c = ⟨1, 1, 1070⟩ ∨ c = ⟨18, 2, 753180⟩) := by
  cases h1 : resetAnswer s.env (fullTrace s) s.choice with
  | H =>
    have hduration := measureDuration_firstExit (s := s) (by simp [measureStep1_presence, h1, presenceOf])
    have htrace : fullTrace (cmdMeasure s) = fullTrace s ++ (resetTrace .H ++ [.ntf]) :=
      congrArg fullTrace (cmdMeasure_firstExit 0 h1)
    exact ⟨_, _, htrace, hasRow_absence, hduration.symm, .inr (.inl rfl)⟩
  | L =>
    have hfound1 : (measureStep1 s).presence = true := by simp [measureStep1_presence, h1]
    cases h2 : resetAnswer s.env (measureTrace1 (fullTrace s) .L) (s.choice + 1) with
    | H =>
      have hduration := measureDuration_secondExit hfound1 (by simp [measureSteps24_presence h1, h2, presenceOf])
      have htrace : fullTrace (cmdMeasure s) = measureTrace1 (fullTrace s) .L ++ (resetTrace .H ++ [.ntf]) :=
        congrArg fullTrace (cmdMeasure_secondExit 0 h1 h2)
      rw [measureTrace1_eq_append, List.append_assoc] at htrace
      exact ⟨_, _, htrace, (hasRow_measureTrace1 .L).append hasRow_absence, hduration.symm, .inr (.inr rfl)⟩
    | L =>
      have hduration := measureDuration_success hfound1 (by simp [measureSteps24_presence h1, h2])
      have htrace : fullTrace (cmdMeasure s)
          = measureTrace2 (fullTrace s) ++ readTraces (measureLsbAnswers s) ++ readTraces (measureMsbAnswers s) :=
        congrArg fullTrace (cmdMeasure_success 0 h1 h2)
      rw [measureTrace2_eq_append, List.append_assoc, List.append_assoc] at htrace
      exact ⟨_, _, htrace, hasRow_measureTrace2.append ((hasRow_readByte ..).append (hasRow_readByte ..)),
        hduration.symm, .inl rfl⟩

/-- What a command appends meets the timing table when it has a row that lasts as long as the command. -/
theorem HasRow.meetsTable {i : Instr} {s : State} {tr : List Event} {c : TimingRow} {rows : List (Nat × Nat × Nat)}
    (h : HasRow tr c) (htrace : fullTrace (runCmd i s) = fullTrace s ++ tr) (hduration : c.time = cmdDuration i s)
    (hrow : (c.falls, c.samples, c.time) ∈ rows) :
    ∃ tr, fullTrace (runCmd i s) = fullTrace s ++ tr ∧ elapsed tr = cmdDuration i s
      ∧ (fallingEdges .H tr, (samplesOf tr).length, elapsed tr) ∈ rows :=
  ⟨tr, htrace, h.time.trans hduration, by rwa [h.fallingEdges_eq, h.samples, h.time]⟩

/-- Settles O25, command by command: what each appends is made of slots, whose rows add up. -/
theorem tracesMatchTheTimingTable : Obligations.TracesMatchTheTimingTable := by
  intro i s
  cases i with
  | reset => exact (hasRow_resetTrace _).meetsTable (fullTrace_cmdReset s) rfl List.mem_cons_self
  | wbit b => exact (hasRow_writeTrace b).meetsTable (fullTrace_cmdWbit b s) rfl List.mem_cons_self
  | rbit => exact (hasRow_readTrace _).meetsTable (fullTrace_cmdRbit s) rfl List.mem_cons_self
  | rbyte => exact (hasRow_readByte ..).meetsTable (fullTrace_cmdRbyte s) rfl List.mem_cons_self
  | wbyte d => exact (hasRow_writeByteTrace d).meetsTable (fullTrace_cmdWbyte d s) rfl List.mem_cons_self
  | skipRom | convertT | readSp =>
    exact (hasRow_writeByteTrace _).meetsTable (fullTrace_cmdWbyte _ s) rfl List.mem_cons_self
  | measure =>
    obtain ⟨tr, c, htrace, h, hduration, hrow⟩ := hasRow_cmdMeasure s
    refine h.meetsTable htrace hduration ?_
    rcases hrow with rfl | rfl | rfl <;> simp

end Sys2Proof.Machine
end

section
/-! SUPPORT. Proofs: how long a running command still takes at most, and that every tick shortens it
(spec/70_reset_and_hazards.md R236). -/

namespace Sys2Proof.Machine

/-! ## What is left of a slot, of a byte, of a measurement -/

/-- Duration of a whole slot or wait (R127, R153). -/
def primDuration : Prim → Nat
  | .none => 0
  | .reset => resetDuration
  | .wbit => writeDuration
  | .rbit => readDuration
  | .wait => tConv

/-- The segments of a slot after segment `sg` (R120). -/
def slotRest : Prim → Bool → Fin 3 → Nat
  | .reset, _, 0 => tRsts + tRstt
  | .reset, _, 1 => tRstt
  | .wbit, b, 0 => writeHigh b
  | .rbit, _, 0 => tRds + tRdt
  | .rbit, _, 1 => tRdt
  | _, _, _ => 0

/-- The slots of a byte after slot `i` (R31). -/
def byteRest : ByteMode → Fin 8 → Nat
  | .none, _ => 0
  | .writing, i => (7 - i.val) * writeDuration
  | .reading, i => (7 - i.val) * readDuration

@[simp] theorem byteRest_none (i : Fin 8) : byteRest .none i = 0 := rfl

/-- The steps of a successful `MEASURE` after step `m` (R27, R150, R154). -/
def measureRest : MStep → Nat
  | .idle | .byteMsb => 0
  | .byteLsb => 8 * readDuration
  | .readSp => 2 * (8 * readDuration)
  | .skip2 => 8 * writeDuration + 2 * (8 * readDuration)
  | .reset2 => 2 * (8 * writeDuration) + 2 * (8 * readDuration)
  | .wait => resetDuration + 2 * (8 * writeDuration) + 2 * (8 * readDuration)
  | .convert => tConv + resetDuration + 2 * (8 * writeDuration) + 2 * (8 * readDuration)
  | .skip1 => tConv + resetDuration + 3 * (8 * writeDuration) + 2 * (8 * readDuration)
  | .reset1 => tConv + resetDuration + 4 * (8 * writeDuration) + 2 * (8 * readDuration)

/-- The ticks a running command takes from `s` on, if every reset finds a device. -/
def ticksLeft (s : State) : Nat :=
  s.timer.toNat + slotRest s.prim s.wb s.seg + byteRest s.byteMode s.bitIdx + measureRest s.mstep

/-- A slot lasts as long as its segments. -/
theorem primDuration_eq {p : Prim} {b : Bool} {r : Segment} (h : segTable p b 0 = some r) :
    primDuration p = r.dur + slotRest p b 0 := by
  cases p <;> cases h <;> cases b <;> rfl

/-- A segment of a slot and what comes after it last no longer than the slot. -/
theorem dur_add_slotRest_le {p : Prim} {b : Bool} {sg : Fin 3} {r : Segment} (h : segTable p b sg = some r) :
    r.dur + slotRest p b sg ≤ primDuration p := by
  unfold segTable at h
  split at h <;> cases h <;> cases b <;> decide

/-- What comes after a segment begins with the next one. -/
theorem slotRest_eq {p : Prim} {b : Bool} {sg : Fin 3} {r r2 : Segment} (h : segTable p b sg = some r)
    (hl : r.last = false) (h2 : segTable p b (sg + 1) = some r2) : slotRest p b sg = r2.dur + slotRest p b (sg + 1) := by
  unfold segTable at h
  split at h <;> cases h <;> cases hl <;> cases h2 <;> rfl

/-- Inside a byte, what comes after a slot begins with the next one. -/
theorem byteRest_eq {i : Fin 8} (hi : i.val < 7) :
    byteRest .writing i = primDuration .wbit + byteRest .writing (i + 1)
      ∧ byteRest .reading i = primDuration .rbit + byteRest .reading (i + 1) := by
  have hleft : 7 - i.val = 7 - (i + 1).val + 1 := by rw [bitIdx_succ_val hi]; omega
  constructor <;> rw [byteRest, hleft, Nat.succ_mul, Nat.add_comm] <;> rfl

/-! ## A primitive just started -/

theorem ticksLeft_startPrim {p : Prim} (b : Bool) (hp : p = .reset ∨ p = .wbit ∨ p = .rbit) (s : State) :
    ticksLeft (startPrim p b s) = primDuration p + byteRest s.byteMode s.bitIdx + measureRest s.mstep := by
  obtain ⟨r, hr, -, he⟩ := startPrim_slot b hp s
  simp only [he, ticksLeft, timer_toNat_of_row hr, primDuration_eq hr]

theorem ticksLeft_startPrim_wait (s : State) :
    ticksLeft (startPrim .wait false s) = tConv + byteRest s.byteMode s.bitIdx + measureRest s.mstep := by
  have hrow : segTable .wait false 0 = some ⟨.H, tConv, .none, true⟩ := rfl
  have htimer : (BitVec.ofNat 20 tConv).toNat = tConv := timer_toNat_of_row hrow
  simp only [startPrim_wait, ticksLeft, htimer, slotRest, Nat.add_zero]

/-- The eight slots of a byte, from the start of the first. -/
theorem primDuration_add_byteRest_zero :
    primDuration .wbit + byteRest .writing 0 = 8 * writeDuration
      ∧ primDuration .rbit + byteRest .reading 0 = 8 * readDuration := by decide

theorem ticksLeft_startWByte (d : Byte) (s : State) :
    ticksLeft (startWByte d s) = 8 * writeDuration + measureRest s.mstep := by
  rw [startWByte, ticksLeft_startPrim _ (.inr (.inl rfl)), primDuration_add_byteRest_zero.1]

theorem ticksLeft_startRByte (s : State) : ticksLeft (startRByte s) = 8 * readDuration + measureRest s.mstep := by
  rw [startRByte, ticksLeft_startPrim _ (.inr (.inr rfl)), primDuration_add_byteRest_zero.2]

theorem ticksLeft_nextSegment {r2 : Segment} (r : Segment) {s : State}
    (h2 : segTable s.prim s.wb (s.seg + 1) = some r2) :
    ticksLeft (nextSegment r r2 s)
      = r2.dur + slotRest s.prim s.wb (s.seg + 1) + byteRest s.byteMode s.bitIdx + measureRest s.mstep := by
  unfold nextSegment
  split <;> simp only [ticksLeft, drive_timer, drive_prim, drive_wb, drive_seg, drive_byteMode, drive_bitIdx,
    drive_mstep, timer_toNat_of_row h2]

/-! ## What an operation does to the time left -/

/-- The command is over (R33). -/
def Ended (s : State) : Prop := s.busy = false ∧ s.done = true

/-- `MeasureNext` ends the command, or starts the step that the time left is counted from. -/
theorem measureNext_ended_or_ticksLeft {s : State} (hm : s.byteMode = .none) :
    Ended (measureNext s) ∨ (ticksLeft (measureNext s) = measureRest s.mstep ∧ (measureNext s).busy = s.busy) := by
  rcases measureNext_cases s with
    ⟨-, e⟩ | ⟨-, -, e⟩ | ⟨-, e⟩ | ⟨m, d, e, hstep⟩ | ⟨hs, e⟩ | ⟨hs, e⟩ | ⟨hs, e⟩ | ⟨hs, e⟩ <;> rw [e]
  · exact .inl ⟨rfl, rfl⟩
  · exact .inl ⟨rfl, rfl⟩
  · exact .inl ⟨rfl, rfl⟩
  · refine .inr ⟨?_, startWByte_busy _ _⟩
    rw [ticksLeft_startWByte]
    rcases hstep with ⟨hs, -, rfl, -⟩ | ⟨hs, rfl, -⟩ | ⟨hs, -, rfl, -⟩ | ⟨hs, rfl, -⟩ <;> rw [hs] <;>
      simp only [measureRest] <;> omega
  · refine .inr ⟨?_, startPrim_busy _ _ _⟩
    simp only [ticksLeft_startPrim_wait, hs, hm, byteRest_none, measureRest]
    omega
  · refine .inr ⟨?_, startPrim_busy _ _ _⟩
    simp only [ticksLeft_startPrim _ (.inl rfl), hs, hm, byteRest_none, measureRest, primDuration]
    omega
  · refine .inr ⟨?_, startRByte_busy _⟩
    simp only [ticksLeft_startRByte, hs, measureRest]
    omega
  · refine .inr ⟨?_, startRByte_busy _⟩
    simp only [ticksLeft_startRByte, hs, measureRest]
    omega

/-- `PrimDone` ends the command, or leaves no more than what came after the slot. -/
theorem primDone_ended_or_ticksLeft (s : State) :
    Ended (primDone s)
      ∨ (ticksLeft (primDone s) ≤ byteRest s.byteMode s.bitIdx + measureRest s.mstep ∧ (primDone s).busy = s.busy) := by
  rcases primDone_cases s with ⟨hm, hi, e⟩ | ⟨hm, hi, e⟩ | ⟨-, e⟩ <;> rw [e]
  · refine .inr ⟨?_, startPrim_busy _ _ _⟩
    rw [ticksLeft_startPrim _ (.inr (.inl rfl)), hm, (byteRest_eq hi).1]
  · refine .inr ⟨?_, startPrim_busy _ _ _⟩
    rw [ticksLeft_startPrim _ (.inr (.inr rfl)), hm, (byteRest_eq hi).2]
  · rcases measureNext_ended_or_ticksLeft (s := { s with byteMode := .none, bitIdx := 0 }) rfl with hend | ⟨hleft, hb⟩
    · exact .inl hend
    · exact .inr ⟨hleft.trans_le (Nat.le_add_left _ _), hb⟩

/-- Every tick of a busy block ends its command or shortens the time left. -/
theorem tick_ended_or_ticksLeft {s t : State} (htimed : TimedSegment s) (h : tick s = .next t) :
    Ended t ∨ (ticksLeft t < ticksLeft s ∧ t.busy = s.busy) := by
  obtain ⟨-, -, -, hpos, -⟩ := htimed
  rcases tick_cases h with ⟨hc, rfl⟩ | ⟨-, r, r2, hr, hl, h2, rfl⟩ | ⟨-, r, hr, -, rfl⟩
  · have htimer : (s.timer - 1).toNat < s.timer.toNat := by bv_omega
    refine .inr ⟨?_, rfl⟩
    simpa [ticksLeft] using htimer
  · have hrest := slotRest_eq hr hl h2
    have hleft : ticksLeft (nextSegment r r2 (sampleFor r.smp (flush (passTick s))))
        = r2.dur + slotRest s.prim s.wb (s.seg + 1) + byteRest s.byteMode s.bitIdx + measureRest s.mstep := by
      simpa using ticksLeft_nextSegment r (s := sampleFor r.smp (flush (passTick s))) (by simpa using h2)
    refine .inr ⟨?_, by simp⟩
    rw [hleft, ticksLeft]
    omega
  · rcases primDone_ended_or_ticksLeft (sampleFor r.smp (flush (passTick s))) with hend | ⟨hle, hb⟩
    · exact .inl hend
    · have hle : ticksLeft (primDone (sampleFor r.smp (flush (passTick s))))
          ≤ byteRest s.byteMode s.bitIdx + measureRest s.mstep := by simpa using hle
      refine .inr ⟨hle.trans_lt ?_, hb.trans (by simp)⟩
      rw [ticksLeft]
      omega

/-! ## The bound (R235) -/

/-- No more than the duration of the primitive, the rest of its byte and the rest of its measurement are left. -/
theorem ticksLeft_le_of_timed {s : State} (h : TimedSegment s) :
    ticksLeft s ≤ primDuration s.prim + byteRest s.byteMode s.bitIdx + measureRest s.mstep := by
  obtain ⟨r, hr, -, -, hle⟩ := h
  have hslot := dur_add_slotRest_le hr
  rw [ticksLeft]
  omega

/-- The wait is a step of `MEASURE`, and no slot of a byte (R27, R153). -/
theorem Running.mstep_of_wait {s : State} (h : Running s) (hp : s.prim = .wait) :
    s.mstep = .wait ∧ s.byteMode = .none := by
  have hslot := h.slot
  have hcmd := h.command
  have hm : s.byteMode = .none := by cases hm : s.byteMode <;> simp [SlotOfByte, hm, hp] at hslot ⊢
  refine ⟨?_, hm⟩
  simp only [RunsItsCommand, hp, hm] at hcmd
  split at hcmd
  case h_7 => split at hcmd <;> simp_all
  all_goals simp at hcmd

theorem primDuration_le {p : Prim} (hp : p ≠ .wait) : primDuration p ≤ resetDuration := by
  cases p
  case wait => exact absurd rfl hp
  all_goals decide

/-- The slots of a byte from slot `i` on. -/
theorem slots_of_byte_le :
    ∀ i : Fin 8, primDuration .wbit + byteRest .writing i ≤ resetDuration
      ∧ primDuration .rbit + byteRest .reading i ≤ resetDuration := by decide

/-- What runs, a slot on its own or the slots of a byte, lasts no longer than a reset slot. -/
theorem primDuration_add_byteRest_le {s : State} (h : SlotOfByte s) (hp : s.prim ≠ .wait) :
    primDuration s.prim + byteRest s.byteMode s.bitIdx ≤ resetDuration := by
  unfold SlotOfByte at h
  cases hm : s.byteMode <;> simp only [hm] at h
  case none => exact primDuration_le hp
  case writing =>
    rw [h.1]
    exact (slots_of_byte_le s.bitIdx).1
  case reading =>
    rw [h]
    exact (slots_of_byte_le s.bitIdx).2

theorem measureRest_le (m : MStep) : measureRest m ≤ measureRest .reset1 := by
  cases m <;> decide

/-- The bound of R236: `MEASURE` at the start of its first reset has the most to do (R235). -/
theorem ticksLeft_le {s : State} (h : Running s) (htimed : TimedSegment s) : ticksLeft s ≤ 755244 := by
  have hmost : measureRest .reset1 + resetDuration = 755244 := by decide
  have hleft := ticksLeft_le_of_timed htimed
  by_cases hp : s.prim = .wait
  · obtain ⟨hs, hm⟩ := h.mstep_of_wait hp
    have hwait : primDuration .wait + measureRest .wait ≤ 755244 := by decide
    rw [hp, hs, hm, byteRest_none] at hleft
    exact hleft.trans hwait
  · have hslot := primDuration_add_byteRest_le h.slot hp
    have hrest := measureRest_le s.mstep
    omega

/-! ## Every command ends (R236) -/

/-- A tick moves the host on as every busy tick does. -/
theorem step_host_of_busy {s t : State} (hb : s.busy = true) (hr : noRstFor 1 s.host = true) (h : step s = .next t) :
    t.host = hostAfterBusyTick s.host := by
  rw [step_of_busy hb hr] at h
  have hsame := (tick_setHost (hostAfterBusyTick s.host) h).symm.trans h
  exact (congrArg State.host (Host.Outcome.next.inj hsame)).symm

/-- By induction on the time left: a tick ends the command or leaves less of it. -/
theorem ends_within {n : Nat} {s : State} (h : BlockInv s) (hb : s.busy = true) (hn : ticksLeft s ≤ n)
    (hr : noRstFor n s.host = true) : ∃ k t, k ≤ n ∧ runSteps k s = .next t ∧ Ended t := by
  induction n generalizing s with
  | zero =>
    obtain ⟨-, -, -, hpos, -⟩ := (h.running hb).2
    rw [ticksLeft] at hn
    omega
  | succ n ih =>
    rw [Nat.add_comm n 1] at hr
    obtain ⟨hr1, hrn⟩ := noRstFor_split hr
    obtain ⟨t, hstep⟩ := stepNeverStops s h
    have htick := (step_of_busy hb hr1).symm.trans hstep
    have htimed : TimedSegment { s with host := hostAfterBusyTick s.host } := (h.running hb).2
    rcases tick_ended_or_ticksLeft htimed htick with hend | ⟨hless, hbusy⟩
    · exact ⟨1, t, by omega, (runSteps_one s).trans hstep, hend⟩
    · have hless : ticksLeft t < ticksLeft s := hless
      obtain ⟨k, u, hk, hrun, hend⟩ := ih (stepKeepsInv s t h hstep) (hbusy.trans hb) (by omega)
        (by rwa [step_host_of_busy hb hr1 hstep])
      exact ⟨k + 1, u, by omega, (runSteps_succ k hstep).trans hrun, hend⟩

/-- Settles O37: the time left starts within the bound of R235. -/
theorem everyCommandEnds : Obligations.EveryCommandEnds := by
  intro s h hb hr
  obtain ⟨hrun, htimed⟩ := h.running hb
  exact ends_within h hb (ticksLeft_le hrun htimed) hr

end Sys2Proof.Machine
end
